-- ==== Sys2Proof/Word.lean ====
section
/-! DEFINITION. The words of the machine: every value is unsigned (00_scope.md R8), bits count from 0 at the
least significant one (R9). -/

namespace Sys2Proof

/-- A memory byte, a general register or a timer counter: 8 bits (R20, R27, R33). -/
abbrev Byte := BitVec 8

/-- An instruction word, `pc`, `I` or a stack entry: 16 bits (R22, R23, R25, R70). -/
abbrev Word := BitVec 16

/-- One of the four nibbles of an instruction word (R9). -/
abbrev Nibble := BitVec 4

/-- The index of a general register, or of a key: 4 bits, so 0 to 15 and nothing else (R37). -/
abbrev Reg := BitVec 4

/-- The 12-bit immediate address `nnn` (R71). -/
abbrev Addr12 := BitVec 12

end Sys2Proof
end

