-- ==== Sys2Proof/Syntax.lean ====
section
/-! DEFINITION. The instructions: one constructor per row of spec/opcode_table.json, in the table's order, with the
fields of 30_encoding.md R71 at exactly the encoding's widths. -/

namespace Sys2Proof

/-- The 34 instruction forms of 30_encoding.md R73. -/
inductive Instr where
  /-- 00E0 `CLS` (R170). -/
  | cls
  /-- 00EE `RET` (R100). -/
  | ret
  /-- 1NNN `JP addr` (R101). -/
  | jp (nnn : Addr12)
  /-- 2NNN `CALL addr` (R102). -/
  | call (nnn : Addr12)
  /-- 3XNN `SE Vx, byte` (R103). -/
  | seImm (x : Reg) (nn : Byte)
  /-- 4XNN `SNE Vx, byte` (R104). -/
  | sneImm (x : Reg) (nn : Byte)
  /-- 5XY0 `SE Vx, Vy` (R105). -/
  | seReg (x y : Reg)
  /-- 6XNN `LD Vx, byte` (R131). -/
  | ldImm (x : Reg) (nn : Byte)
  /-- 7XNN `ADD Vx, byte` (R132). -/
  | addImm (x : Reg) (nn : Byte)
  /-- 8XY0 `LD Vx, Vy` (R133). -/
  | ldReg (x y : Reg)
  /-- 8XY1 `OR Vx, Vy` (R134). -/
  | orReg (x y : Reg)
  /-- 8XY2 `AND Vx, Vy` (R135). -/
  | andReg (x y : Reg)
  /-- 8XY3 `XOR Vx, Vy` (R136). -/
  | xorReg (x y : Reg)
  /-- 8XY4 `ADD Vx, Vy` (R137). -/
  | addReg (x y : Reg)
  /-- 8XY5 `SUB Vx, Vy` (R138). -/
  | subReg (x y : Reg)
  /-- 8XY6 `SHR Vx {, Vy}` (R139). -/
  | shr (x y : Reg)
  /-- 8XY7 `SUBN Vx, Vy` (R140). -/
  | subnReg (x y : Reg)
  /-- 8XYE `SHL Vx {, Vy}` (R141). -/
  | shl (x y : Reg)
  /-- 9XY0 `SNE Vx, Vy` (R106). -/
  | sneReg (x y : Reg)
  /-- ANNN `LD I, addr` (R220). -/
  | ldI (nnn : Addr12)
  /-- BNNN `JP V0, addr` (R107). -/
  | jpV0 (nnn : Addr12)
  /-- CXNN `RND Vx, byte` (R142). -/
  | rnd (x : Reg) (nn : Byte)
  /-- DXYN `DRW Vx, Vy, nibble` (R171). -/
  | drw (x y : Reg) (n : Nibble)
  /-- EX9E `SKP Vx` (R190). -/
  | skp (x : Reg)
  /-- EXA1 `SKNP Vx` (R191). -/
  | sknp (x : Reg)
  /-- FX07 `LD Vx, DT` (R210). -/
  | ldDT (x : Reg)
  /-- FX0A `LD Vx, K` (R192). -/
  | ldK (x : Reg)
  /-- FX15 `LD DT, Vx` (R211). -/
  | setDT (x : Reg)
  /-- FX18 `LD ST, Vx` (R212). -/
  | setST (x : Reg)
  /-- FX1E `ADD I, Vx` (R221). -/
  | addI (x : Reg)
  /-- FX29 `LD F, Vx` (R173). -/
  | ldF (x : Reg)
  /-- FX33 `LD B, Vx` (R222). -/
  | ldB (x : Reg)
  /-- FX55 `LD [I], Vx` (R223). -/
  | stRange (x : Reg)
  /-- FX65 `LD Vx, [I]` (R224). -/
  | ldRange (x : Reg)
  deriving DecidableEq, Repr

end Sys2Proof
end

