-- ==== Sys2Proof/WellFormed.lean ====
section
/-! DEFINITION. Which words are instructions at all: the opcode map of 30_encoding.md R73 as a table of match and mask,
and the check that a word matches a row (R75). It is written apart from the decoder, so that the two can be compared.
A term of `Instr` needs no check of its fields: every field has exactly the encoding's width (R71) and the encoding has
no reserved value (R77); `Instr.wellFormed` (Decode.lean) asks that its word pass the check below. -/

namespace Sys2Proof

/-- One row of R73's opcode map. -/
structure OpcodeRow where
  mnemonic : String
  value : Word
  mask : Word
  deriving DecidableEq, Repr

/-- The rows of R73 with leading nibble 0 to 7. -/
def opcodeRowsLow : List OpcodeRow := [
  ⟨"CLS", 0x00E0#16, 0xFFFF#16⟩,
  ⟨"RET", 0x00EE#16, 0xFFFF#16⟩,
  ⟨"JP_addr", 0x1000#16, 0xF000#16⟩,
  ⟨"CALL_addr", 0x2000#16, 0xF000#16⟩,
  ⟨"SE_Vx__byte", 0x3000#16, 0xF000#16⟩,
  ⟨"SNE_Vx__byte", 0x4000#16, 0xF000#16⟩,
  ⟨"SE_Vx__Vy", 0x5000#16, 0xF00F#16⟩,
  ⟨"LD_Vx__byte", 0x6000#16, 0xF000#16⟩,
  ⟨"ADD_Vx__byte", 0x7000#16, 0xF000#16⟩]

/-- The rows of R73 with leading nibble 8. -/
def opcodeRowsAlu : List OpcodeRow := [
  ⟨"LD_Vx__Vy", 0x8000#16, 0xF00F#16⟩,
  ⟨"OR_Vx__Vy", 0x8001#16, 0xF00F#16⟩,
  ⟨"AND_Vx__Vy", 0x8002#16, 0xF00F#16⟩,
  ⟨"XOR_Vx__Vy", 0x8003#16, 0xF00F#16⟩,
  ⟨"ADD_Vx__Vy", 0x8004#16, 0xF00F#16⟩,
  ⟨"SUB_Vx__Vy", 0x8005#16, 0xF00F#16⟩,
  ⟨"SHR_Vx____Vy", 0x8006#16, 0xF00F#16⟩,
  ⟨"SUBN_Vx__Vy", 0x8007#16, 0xF00F#16⟩,
  ⟨"SHL_Vx____Vy", 0x800E#16, 0xF00F#16⟩]

/-- The rows of R73 with leading nibble 9 to E. -/
def opcodeRowsMid : List OpcodeRow := [
  ⟨"SNE_Vx__Vy", 0x9000#16, 0xF00F#16⟩,
  ⟨"LD_I__addr", 0xA000#16, 0xF000#16⟩,
  ⟨"JP_V0__addr", 0xB000#16, 0xF000#16⟩,
  ⟨"RND_Vx__byte", 0xC000#16, 0xF000#16⟩,
  ⟨"DRW_Vx__Vy__nibble", 0xD000#16, 0xF000#16⟩,
  ⟨"SKP_Vx", 0xE09E#16, 0xF0FF#16⟩,
  ⟨"SKNP_Vx", 0xE0A1#16, 0xF0FF#16⟩]

/-- The rows of R73 with leading nibble F. -/
def opcodeRowsHigh : List OpcodeRow := [
  ⟨"LD_Vx__DT", 0xF007#16, 0xF0FF#16⟩,
  ⟨"LD_Vx__K", 0xF00A#16, 0xF0FF#16⟩,
  ⟨"LD_DT__Vx", 0xF015#16, 0xF0FF#16⟩,
  ⟨"LD_ST__Vx", 0xF018#16, 0xF0FF#16⟩,
  ⟨"ADD_I__Vx", 0xF01E#16, 0xF0FF#16⟩,
  ⟨"LD_F__Vx", 0xF029#16, 0xF0FF#16⟩,
  ⟨"LD_B__Vx", 0xF033#16, 0xF0FF#16⟩,
  ⟨"LD__I___Vx", 0xF055#16, 0xF0FF#16⟩,
  ⟨"LD_Vx___I", 0xF065#16, 0xF0FF#16⟩]

/-- R73: the whole opcode map, 34 rows. -/
def opcodeMap : List OpcodeRow := opcodeRowsLow ++ opcodeRowsAlu ++ opcodeRowsMid ++ opcodeRowsHigh

/-- The word agrees with the row in every bit of the row's mask. -/
def OpcodeRow.holds (r : OpcodeRow) (w : Word) : Bool := w &&& r.mask == r.value

/-- R75: a word is an instruction exactly if it matches a row; every other word is illegal. -/
def legalWord (w : Word) : Bool := opcodeMap.any (fun r => r.holds w)

end Sys2Proof
end

