-- ==== Sys2Proof/Decode.lean ====
section
/-! DEFINITION. Decoding (30_encoding.md R81), total on every word and on every byte string, and the encoder written
from the same formats (R71, R73). -/

namespace Sys2Proof

/-! ## The fields of a word (R71) -/

/-- `op = w[15:12]`. -/
def opField (w : Word) : Nibble := w.extractLsb' 12 4

/-- `x = w[11:8]`. -/
def xField (w : Word) : Reg := w.extractLsb' 8 4

/-- `y = w[7:4]`. -/
def yField (w : Word) : Reg := w.extractLsb' 4 4

/-- `n = w[3:0]`. -/
def nField (w : Word) : Nibble := w.extractLsb' 0 4

/-- `nn = w[7:0]`. -/
def nnField (w : Word) : Byte := w.extractLsb' 0 8

/-- `nnn = w[11:0]`. -/
def nnnField (w : Word) : Addr12 := w.extractLsb' 0 12

/-! ## Decoding a word (R81) -/

/-- What a word decodes to: an instruction, or UnknownOpcode with the whole word (R75). -/
inductive Decoded where
  | instr (i : Instr)
  | unknownOpcode (w : Word)
  deriving DecidableEq, Repr

/-- R81, leading nibble 0: only 00E0 and 00EE; the historical SYS call is illegal (R76). -/
def decodeFamily0 (w : Word) : Decoded :=
  if w = 0x00E0#16 then .instr .cls
  else if w = 0x00EE#16 then .instr .ret
  else .unknownOpcode w

/-- R81, leading nibble 8: the low nibble selects the operation. -/
def decodeFamily8 (w : Word) : Decoded :=
  let x := xField w
  let y := yField w
  match (nField w).toNat with
  | 0x0 => .instr (.ldReg x y)
  | 0x1 => .instr (.orReg x y)
  | 0x2 => .instr (.andReg x y)
  | 0x3 => .instr (.xorReg x y)
  | 0x4 => .instr (.addReg x y)
  | 0x5 => .instr (.subReg x y)
  | 0x6 => .instr (.shr x y)
  | 0x7 => .instr (.subnReg x y)
  | 0xE => .instr (.shl x y)
  | _ => .unknownOpcode w

/-- R81, leading nibble E: the low byte selects the operation. -/
def decodeFamilyE (w : Word) : Decoded :=
  if nnField w = 0x9E#8 then .instr (.skp (xField w))
  else if nnField w = 0xA1#8 then .instr (.sknp (xField w))
  else .unknownOpcode w

/-- R81, leading nibble F: the low byte selects the operation. -/
def decodeFamilyF (w : Word) : Decoded :=
  if nnField w = 0x07#8 then .instr (.ldDT (xField w))
  else if nnField w = 0x0A#8 then .instr (.ldK (xField w))
  else if nnField w = 0x15#8 then .instr (.setDT (xField w))
  else if nnField w = 0x18#8 then .instr (.setST (xField w))
  else if nnField w = 0x1E#8 then .instr (.addI (xField w))
  else if nnField w = 0x29#8 then .instr (.ldF (xField w))
  else if nnField w = 0x33#8 then .instr (.ldB (xField w))
  else if nnField w = 0x55#8 then .instr (.stRange (xField w))
  else if nnField w = 0x65#8 then .instr (.ldRange (xField w))
  else .unknownOpcode w

/-- R81: the decoder, total on 16-bit words. -/
def decode (w : Word) : Decoded :=
  match (opField w).toNat with
  | 0x0 => decodeFamily0 w
  | 0x1 => .instr (.jp (nnnField w))
  | 0x2 => .instr (.call (nnnField w))
  | 0x3 => .instr (.seImm (xField w) (nnField w))
  | 0x4 => .instr (.sneImm (xField w) (nnField w))
  | 0x5 => if nField w = 0#4 then .instr (.seReg (xField w) (yField w)) else .unknownOpcode w
  | 0x6 => .instr (.ldImm (xField w) (nnField w))
  | 0x7 => .instr (.addImm (xField w) (nnField w))
  | 0x8 => decodeFamily8 w
  | 0x9 => if nField w = 0#4 then .instr (.sneReg (xField w) (yField w)) else .unknownOpcode w
  | 0xA => .instr (.ldI (nnnField w))
  | 0xB => .instr (.jpV0 (nnnField w))
  | 0xC => .instr (.rnd (xField w) (nnField w))
  | 0xD => .instr (.drw (xField w) (yField w) (nField w))
  | 0xE => decodeFamilyE w
  | _ => decodeFamilyF w

/-! ## Decoding bytes (R55, R70) -/

/-- R55: the big-endian word of two bytes, the one at the lower address first. -/
def wordOfBytes (hi lo : Byte) : Word := hi ++ lo

/-- R55: the two bytes of a word, the one at the lower address first. -/
def bytesOfWord (w : Word) : List Byte := [w.extractLsb' 8 8, w.extractLsb' 0 8]

/-- What a byte string decodes to: what its first word is, with the bytes after it; or, where it holds less than one
word, nothing. -/
inductive DecodedBytes where
  | first (d : Decoded) (rest : List Byte)
  | truncated (bytes : List Byte)
  deriving DecidableEq, Repr

/-- R70: every instruction is one 16-bit big-endian word, so decoding takes two bytes. -/
def decodeBytes : List Byte → DecodedBytes
  | hi :: lo :: rest => .first (decode (wordOfBytes hi lo)) rest
  | bytes => .truncated bytes

/-- The instruction a decoding gives, if it gives one. -/
def DecodedBytes.instr? : DecodedBytes → Option Instr
  | .first (.instr i) _ => some i
  | .first (.unknownOpcode _) _ => none
  | .truncated _ => none

/-- The 16-bit word whose low `nbits` bits are those of `w` and whose other bits are 0. -/
def tableWord (nbits w : Nat) : Word := BitVec.ofNat 16 (w % 2 ^ nbits)

/-- The instruction the decoder reads from a word numbered as spec/opcode_table.json numbers it, laid out big-endian. -/
def decodeTableWord (nbits w : Nat) : Option Instr := (decodeBytes (bytesOfWord (tableWord nbits w))).instr?

/-! ## Encoding (R71, R73) -/

/-- Format NNN: `oooo nnnn nnnn nnnn`. -/
def formatNNN (op : Nibble) (nnn : Addr12) : Word := op ++ nnn

/-- Format XNN: `oooo xxxx nnnn nnnn`; format X is the same with the low byte fixed. -/
def formatXNN (op : Nibble) (x : Reg) (nn : Byte) : Word := op ++ x ++ nn

/-- Format XYN: `oooo xxxx yyyy nnnn`; format XY is the same with the low nibble fixed. -/
def formatXYN (op : Nibble) (x y : Reg) (n : Nibble) : Word := op ++ x ++ y ++ n

/-- R73, R82: the word an instruction assembles to. -/
def encode : Instr → Word
  | .cls => 0x00E0#16
  | .ret => 0x00EE#16
  | .jp nnn => formatNNN 0x1#4 nnn
  | .call nnn => formatNNN 0x2#4 nnn
  | .seImm x nn => formatXNN 0x3#4 x nn
  | .sneImm x nn => formatXNN 0x4#4 x nn
  | .seReg x y => formatXYN 0x5#4 x y 0x0#4
  | .ldImm x nn => formatXNN 0x6#4 x nn
  | .addImm x nn => formatXNN 0x7#4 x nn
  | .ldReg x y => formatXYN 0x8#4 x y 0x0#4
  | .orReg x y => formatXYN 0x8#4 x y 0x1#4
  | .andReg x y => formatXYN 0x8#4 x y 0x2#4
  | .xorReg x y => formatXYN 0x8#4 x y 0x3#4
  | .addReg x y => formatXYN 0x8#4 x y 0x4#4
  | .subReg x y => formatXYN 0x8#4 x y 0x5#4
  | .shr x y => formatXYN 0x8#4 x y 0x6#4
  | .subnReg x y => formatXYN 0x8#4 x y 0x7#4
  | .shl x y => formatXYN 0x8#4 x y 0xE#4
  | .sneReg x y => formatXYN 0x9#4 x y 0x0#4
  | .ldI nnn => formatNNN 0xA#4 nnn
  | .jpV0 nnn => formatNNN 0xB#4 nnn
  | .rnd x nn => formatXNN 0xC#4 x nn
  | .drw x y n => formatXYN 0xD#4 x y n
  | .skp x => formatXNN 0xE#4 x 0x9E#8
  | .sknp x => formatXNN 0xE#4 x 0xA1#8
  | .ldDT x => formatXNN 0xF#4 x 0x07#8
  | .ldK x => formatXNN 0xF#4 x 0x0A#8
  | .setDT x => formatXNN 0xF#4 x 0x15#8
  | .setST x => formatXNN 0xF#4 x 0x18#8
  | .addI x => formatXNN 0xF#4 x 0x1E#8
  | .ldF x => formatXNN 0xF#4 x 0x29#8
  | .ldB x => formatXNN 0xF#4 x 0x33#8
  | .stRange x => formatXNN 0xF#4 x 0x55#8
  | .ldRange x => formatXNN 0xF#4 x 0x65#8

/-- R77: an instruction is well-formed if its word is one of the 34 forms. -/
def Instr.wellFormed (i : Instr) : Bool := legalWord (encode i)

end Sys2Proof
end

