-- ==== Sys2Proof/Config.lean ====
section
/-! DEFINITION. What the spec leaves free: the random byte. (The parameters the spec gives a value for stand with the
operations that use them, where a repair may reach them: `fontset` in Machine/AddressSpace.lean, `shiftSource` in
Machine/Operands.lean. `CPU_HZ` is open and no rule depends on it, R298.) -/

namespace Sys2Proof

/-- R142, D21: the byte of the `k`-th random draw. "The source fixes no generator, seed or distribution": a free
value, with no body, so a statement about it holds for every generator. Log entry 2. -/
opaque Config.drawByte : Nat → Byte

end Sys2Proof
end

