-- ==== Sys2Proof/Machine/State.lean ====
section
/-! DEFINITION. The state of the core (10_state.md), as plain data, and the state after reset (R290). -/

namespace Sys2Proof.Machine

/-- R240: the seven fatal errors, with the information each records. They are part of the run state, not outcomes of a
step: raising one is a next state whose run state is `Halted` (R243). -/
inductive FatalError where
  /-- Code 1: the fetched word matches no row of R73. -/
  | unknownOpcode (w : Word)
  /-- Code 2: CALL at depth 16. -/
  | stackOverflow
  /-- Code 3: RET at depth 0. -/
  | stackUnderflow
  /-- Code 4: DRW, FX33, FX55 or FX65 reaches an address of 0x1000 or more; the first such address. -/
  | memoryOutOfRange (addr : Nat)
  /-- Code 5: FX33 or FX55 would write below 0x200; the first failing address. -/
  | protectedWrite (addr : Nat)
  /-- Code 6: a fetch with `pc` odd or above 0xFFE. -/
  | pcOutOfRange (pc : Word)
  /-- Code 7: EX9E, EXA1 or FX29 with a register above 15; the instruction's word. -/
  | operandOutOfRange (w : Word)
  deriving DecidableEq, Repr

/-- R32: the run state. `awaitingKey x` also holds the InputLatch's awaiting register index (R31). -/
inductive RunState where
  | running
  | awaitingKey (x : Reg)
  | halted (e : FatalError)
  deriving DecidableEq, Repr

/-- R270: the transactions of the core's interface, one constructor per row of the table. -/
inductive HostCall where
  /-- `reset()` (R290). -/
  | reset
  /-- `load_rom(bytes)` (R292). -/
  | loadRom (bytes : List Byte)
  /-- `cycle()` (R78, R79, R80). -/
  | cycle
  /-- `tick_timers()` (R255). -/
  | tickTimers
  /-- `set_key(index, pressed)` (R261); the host's duty is index ≤ 15. -/
  | setKey (index : Nat) (pressed : Bool)
  /-- `resolve_wait(value)` (R193); the host's duty is value ≤ 15. -/
  | resolveWait (value : Nat)
  /-- The rendering collaborator's view of the pixel grid (R36). -/
  | readPixels
  /-- The debug display's view of V0-VF, `pc`, the stack and I (R36, R273). -/
  | readDebug
  /-- The audio collaborator's view of `sound_active` (R28, R36). -/
  | readSound
  deriving DecidableEq, Repr

/-- The AddressSpace (R33, R50) as a list of the cells whose byte differs from the reset contents, by rising address. -/
abbrev Memory := List Host.Cell

/-- R29: 32 rows of 64 one-bit pixels, true meaning set: row `y` and in it column `x`. -/
abbrev FrameBuffer := Vector (Vector Bool 64) 32

/-- Everything the core holds (10_state.md section 8), and two fields of the model's own, `draws` and `calls`. -/
structure State where
  /-- V0 to VF (R20); V15 is the flag register VF (R21). -/
  v : Vector Byte 16
  /-- The index register `I` (R22). -/
  index : Word
  /-- The program counter (R23). -/
  pc : Word
  /-- The call stack, bottom entry first; its length is `depth` (R25). -/
  stack : List Word
  /-- The delay timer DT (R27). -/
  dt : Byte
  /-- The sound timer ST (R27). -/
  st : Byte
  /-- The FrameBuffer (R29). -/
  fb : FrameBuffer
  /-- The InputLatch's key booleans, true meaning pressed (R30). -/
  keys : Vector Bool 16
  /-- The run state, with the awaiting register or the fatal error (R31, R32). -/
  run : RunState
  /-- The AddressSpace (R33). -/
  mem : Memory
  /-- The model's own: how many random draws have been made (log entry 2). -/
  draws : Nat
  /-- The model's own: the transactions the host makes next, oldest first; where there are none left the host calls
  `cycle()` (log entry 1). -/
  calls : List HostCall
  deriving DecidableEq, Repr

/-- Why the machine has no move. No instruction raises one: only a transaction whose host broke its duty (R270). -/
inductive Fault where
  /-- `set_key` with an index above 15: "a call with any other index has no move in the model" (R261). Raised by
  `transact`. Safe: the model stops where a host must not go. -/
  | setKeyOutOfRange (index : Nat)
  /-- `resolve_wait` with a value above 15: "the model gives such a call no move" (R193). Raised by `transact`. Safe:
  the model stops where a host must not go. -/
  | resolveWaitOutOfRange (value : Nat)
  deriving DecidableEq, Repr

/-- Why an instruction has no meaning. Nothing answers with it: all 34 forms have their meaning. -/
inductive Refusal where
  /-- The instruction of this mnemonic has no meaning yet. Raised by an arm of `exec` alone. Safe: the model stops. -/
  | notModelled (mnemonic : String)
  deriving DecidableEq, Repr

/-- The outcome of an instruction or a transaction. -/
abbrev Result := Host.Outcome State Fault Refusal

/-- R290, R291: the machine right after reset. Memory lists nothing: every byte holds its reset contents. -/
def State.reset : State where
  v := Vector.replicate 16 0#8
  index := 0#16
  pc := 0x200#16
  stack := []
  dt := 0#8
  st := 0#8
  fb := Vector.replicate 32 (Vector.replicate 64 false)
  keys := Vector.replicate 16 false
  run := .running
  mem := []
  draws := 0
  calls := []

end Sys2Proof.Machine
end

