-- ==== Sys2Proof/Machine/AddressSpace.lean ====
section
/-! DEFINITION. The AddressSpace (20_memory.md): its reset contents, reading and writing bytes in canonical form, and the
range and protection checks an instruction makes before it writes anything (R58, R59, 46_index_memory.md). -/

namespace Sys2Proof.Machine

/-! ## Reset contents (R52, R53, R54) -/

/-- R50: the number of bytes; the first address that does not exist. -/
def memSize : Nat := 0x1000

/-- R7, R291: where programs start, and the first address a program may write (R59). -/
def progBase : Nat := 0x200

/-- R53: where the fontset starts. -/
def fontBase : Nat := 0x050

/-- R54: glyphs 0 to 7. -/
def fontLow : List Byte :=
  [0xF0#8, 0x90#8, 0x90#8, 0x90#8, 0xF0#8] ++ [0x20#8, 0x60#8, 0x20#8, 0x20#8, 0x70#8] ++
  [0xF0#8, 0x10#8, 0xF0#8, 0x80#8, 0xF0#8] ++ [0xF0#8, 0x10#8, 0xF0#8, 0x10#8, 0xF0#8] ++
  [0x90#8, 0x90#8, 0xF0#8, 0x10#8, 0x10#8] ++ [0xF0#8, 0x80#8, 0xF0#8, 0x10#8, 0xF0#8] ++
  [0xF0#8, 0x80#8, 0xF0#8, 0x90#8, 0xF0#8] ++ [0xF0#8, 0x10#8, 0x20#8, 0x40#8, 0x40#8]

/-- R54: glyphs 8 to F. -/
def fontHigh : List Byte :=
  [0xF0#8, 0x90#8, 0xF0#8, 0x90#8, 0xF0#8] ++ [0xF0#8, 0x90#8, 0xF0#8, 0x10#8, 0xF0#8] ++
  [0xF0#8, 0x90#8, 0xF0#8, 0x90#8, 0x90#8] ++ [0xE0#8, 0x90#8, 0xE0#8, 0x90#8, 0xE0#8] ++
  [0xF0#8, 0x80#8, 0x80#8, 0x80#8, 0xF0#8] ++ [0xE0#8, 0x90#8, 0x90#8, 0x90#8, 0xE0#8] ++
  [0xF0#8, 0x80#8, 0xF0#8, 0x80#8, 0xF0#8] ++ [0xF0#8, 0x80#8, 0xF0#8, 0x80#8, 0x80#8]

/-- R54, D17: the parameter FONTSET at the spec's default, 16 glyphs of 5 bytes (log entry 5). -/
def fontset : List Byte := fontLow ++ fontHigh

/-- R52, R290: what a byte holds after reset, and so what an unlisted address reads as. -/
def resetByte (a : Nat) : Byte :=
  if fontBase ≤ a then fontset.getD (a - fontBase) 0#8 else 0#8

/-! ## Bytes -/

/-- R61: the byte at an address. Instructions reach it only behind `checkRead` or `checkWrite`
(log entry 16). -/
def readByte : Memory → Nat → Byte
  | [], a => resetByte a
  | c :: m, a => if c.1 = a then c.2 else readByte m a

/-- A cell in front of a memory, left out where it says what an unlisted address reads as anyway. -/
def consCell (a : Nat) (b : Byte) (m : Memory) : Memory :=
  if b = resetByte a then m else (a, b) :: m

/-- R61: write one byte, keeping the list's canonical form. -/
def writeByte : Memory → Nat → Byte → Memory
  | [], a, b => consCell a b []
  | c :: m, a, b =>
    if a < c.1 then consCell a b (c :: m)
    else if a = c.1 then consCell a b m
    else c :: writeByte m a b

/-- The bytes at `a`, `a + 1`, …: `n` of them. -/
def readBytes (m : Memory) (a : Nat) : Nat → List Byte
  | 0 => []
  | n + 1 => readByte m a :: readBytes m (a + 1) n

/-- R63: write bytes at `a`, `a + 1`, …, in ascending order. -/
def writeBytes : Memory → Nat → List Byte → Memory
  | m, _, [] => m
  | m, a, b :: bs => writeBytes (writeByte m a b) (a + 1) bs

/-- R55: the big-endian word at an address. -/
def fetch16 (m : Memory) (a : Nat) : Word := readByte m a ++ readByte m (a + 1)

/-- The canonical form: addresses strictly rising, each one that exists, and no cell that says what an unlisted address
reads as anyway. -/
abbrev Memory.wf (m : Memory) : Prop :=
  m.Pairwise (fun c d => c.1 < d.1) ∧ ∀ c ∈ m, c.1 < memSize ∧ c.2 ≠ resetByte c.1

/-! ## Checks before any access (R58, R59, R246) -/

/-- R58: the first of the `n` addresses from `a` on that does not exist. -/
def checkRead (a : Nat) : Nat → Option FatalError
  | 0 => none
  | n + 1 => if memSize ≤ a then some (.memoryOutOfRange a) else checkRead (a + 1) n

/-- R58, R59: the first of the `n` addresses from `a` on that a program may not write: range before protection. -/
def checkWrite (a : Nat) : Nat → Option FatalError
  | 0 => none
  | n + 1 =>
    if memSize ≤ a then some (.memoryOutOfRange a)
    else if a < progBase then some (.protectedWrite a)
    else checkWrite (a + 1) n

/-- R60, R78: a fetch needs `pc` even and at most 0xFFE. -/
def fetchFault (pc : Word) : Option FatalError :=
  if pc.toNat % 2 ≠ 0 ∨ pc.toNat > 0xFFE then some (.pcOutOfRange pc) else none

end Sys2Proof.Machine
end

