-- ==== Sys2Proof/Machine/Ops.lean ====
section
/-! DEFINITION. The named operations over the state: one accessor and one setter per piece of state, the moves of the
program counter (R24), the call stack (R25), the FrameBuffer's pixels (R29), and raising a fatal error (R243). -/

namespace Sys2Proof.Machine

/-- R21: VF, the flag register, is V15. -/
def VF : Reg := 0xF#4

/-! ## Registers, index, timers, keys -/

/-- R20: read a general register. -/
def State.getV (s : State) (r : Reg) : Byte := s.v[r.toNat]'r.isLt

/-- R20: write a general register; none is hardwired. -/
def State.setV (s : State) (r : Reg) (b : Byte) : State := { s with v := s.v.set r.toNat b r.isLt }

/-- R22. -/
def State.setIndex (s : State) (w : Word) : State := { s with index := w }

/-- R23. -/
def State.setPc (s : State) (w : Word) : State := { s with pc := w }

/-- R25. -/
def State.setStack (s : State) (l : List Word) : State := { s with stack := l }

/-- R27. -/
def State.setDT (s : State) (b : Byte) : State := { s with dt := b }

/-- R27. -/
def State.setST (s : State) (b : Byte) : State := { s with st := b }

/-- R29. -/
def State.setScreen (s : State) (f : FrameBuffer) : State := { s with fb := f }

/-- R30: is the key pressed. -/
def State.key (s : State) (k : Reg) : Bool := s.keys[k.toNat]'k.isLt

/-- R261: the InputLatch's update of one key. -/
def State.setKey (s : State) (k : Reg) (p : Bool) : State := { s with keys := s.keys.set k.toNat p k.isLt }

/-- R32. -/
def State.setRun (s : State) (r : RunState) : State := { s with run := r }

/-- R33. -/
def State.setMem (s : State) (m : Memory) : State := { s with mem := m }

/-- The model's own counter of draws (log entry 2). -/
def State.setDraws (s : State) (k : Nat) : State := { s with draws := k }

/-- The model's own schedule of the host (log entry 1). -/
def State.setCalls (s : State) (l : List HostCall) : State := { s with calls := l }

/-- R25: the depth counter. -/
def State.depth (s : State) : Nat := s.stack.length

/-- R28: `sound_active`. -/
def State.soundActive (s : State) : Bool := s.st != 0#8

/-! ## The program counter (R24, R78) -/

/-- R78: `next`, the address after the instruction at `pc`. -/
def State.nextPc (s : State) : Word := s.pc + 2#16

/-- R24: what a non-control instruction does to `pc`. -/
def State.advance (s : State) : State := s.setPc s.nextPc

/-- R24: a taken skip goes one word further; one not taken advances. -/
def State.skipIf (s : State) (taken : Bool) : State := s.setPc (if taken then s.nextPc + 2#16 else s.nextPc)

/-! ## The call stack (R25) -/

/-- R10: `push` appends. -/
def State.push (s : State) (w : Word) : State := s.setStack (s.stack ++ [w])

/-! ## The FrameBuffer (R29, R171) -/

/-- R29: `FB[x][y]`, column `x` and row `y`. -/
def pixel (f : FrameBuffer) (x : Fin 64) (y : Fin 32) : Bool := (f[y.val]'y.isLt)[x.val]'x.isLt

/-- Set one pixel. -/
def setPixel (f : FrameBuffer) (x : Fin 64) (y : Fin 32) (p : Bool) : FrameBuffer :=
  f.set y.val ((f[y.val]'y.isLt).set x.val p x.isLt) y.isLt

/-- R170: every pixel clear. -/
def clearScreen : FrameBuffer := Vector.replicate 32 (Vector.replicate 64 false)

/-- A FrameBuffer being drawn on, and whether a set pixel has been cleared so far (R171's `collided`). -/
abbrev Canvas := FrameBuffer × Bool

/-- R171: flip one pixel, which collides if it was set. -/
def flipPixel (c : Canvas) (x : Fin 64) (y : Fin 32) : Canvas :=
  (setPixel c.1 x y (!pixel c.1 x y), c.2 || pixel c.1 x y)

/-- R171, R172: columns `c`, …, 7 of a sprite row at column `x0`: bit 7 is the leftmost pixel, and the row wraps past the
right edge. The last argument counts the columns still to draw. -/
def drawColumns (row : Byte) (x0 : Nat) (y : Fin 32) (c : Nat) (k : Canvas) : Nat → Canvas
  | 0 => k
  | m + 1 =>
    drawColumns row x0 y (c + 1)
      (if row.getLsbD (7 - c) then flipPixel k (Fin.ofNat 64 (x0 + c)) y else k) m

/-- R171: the rows of a sprite, top row first, at column `x0` from row `y0` down, wrapping past the bottom edge. -/
def drawRows (x0 y0 : Nat) (k : Canvas) : List Byte → Canvas
  | [] => k
  | row :: rows => drawRows x0 (y0 + 1) (drawColumns row x0 (Fin.ofNat 32 y0) 0 k 8) rows

/-- R171: XOR a sprite onto the screen at the coordinates of two registers, reduced first. -/
def drawSprite (rows : List Byte) (vx vy : Byte) (f : FrameBuffer) : Canvas :=
  drawRows (vx.toNat % 64) (vy.toNat % 32) (f, false) rows

/-! ## Fatal errors (R243, R244) -/

/-- R243, R244: raise a fatal error. The run state becomes `Halted(e)` and nothing else changes; `pc` stays at the
faulting instruction. There is no handler, and no return but reset or a load (R245). It is a next state, not the model's `fault`
(DESIGN CHOICE, log entry 13). -/
def raise (e : FatalError) (s : State) : Result := .next (s.setRun (.halted e))

/-- R10, R244: run a body unless a check made before it raises. -/
def checked (check : Option FatalError) (s : State) (body : State) : Result :=
  match check with
  | some e => raise e s
  | none => .next body

/-- R240, D33: the numeric code of a fatal error. -/
def FatalError.code : FatalError → Nat
  | .unknownOpcode _ => 1
  | .stackOverflow => 2
  | .stackUnderflow => 3
  | .memoryOutOfRange _ => 4
  | .protectedWrite _ => 5
  | .pcOutOfRange _ => 6
  | .operandOutOfRange _ => 7

end Sys2Proof.Machine
end

