-- ==== Sys2Proof/Machine/Flags.lean ====
section
/-! DEFINITION. The flags written to VF (42_alu.md R130, R143; 43_display.md R171). Each is computed from the operands as
read, on unbounded integers, and written after the result. -/

namespace Sys2Proof.Machine

/-- A flag is the byte 1 or 0. -/
def flagByte (p : Bool) : Byte := if p then 1#8 else 0#8

/-- R137: carry, the "mathematical sum exceeded 255". -/
def carryFlag (a b : Byte) : Byte := flagByte (decide (a.toNat + b.toNat > 255))

/-- R138, R140: no borrow, minuend ≥ subtrahend. -/
def noBorrowFlag (a b : Byte) : Byte := flagByte (decide (a.toNat ≥ b.toNat))

/-- R139: the bit a right shift moves out, bit 0 of the source. -/
def shiftedOutRight (a : Byte) : Byte := flagByte (a.getLsbD 0)

/-- R141: the bit a left shift moves out, bit 7 of the source. -/
def shiftedOutLeft (a : Byte) : Byte := flagByte (a.getLsbD 7)

/-- R130: the result goes to `V[x]`, then the flag to VF, then `pc` to `next`; with `x = F` the flag stays. -/
def State.writeWithFlag (s : State) (x : Reg) (result flag : Byte) : State :=
  ((s.setV x result).setV VF flag).advance

end Sys2Proof.Machine
end

