-- ==== Sys2Proof/Machine/Operands.lean ====
section
/-! DEFINITION. The operand forms: zero-extended immediates (R72), the shift source (R139), the effective addresses
`I + k` (46_index_memory.md), the ranges V0..Vx (R223, R224), the decimal digits (R222), a glyph's address (R173), and
the 4-bit indices taken from a register (R173, R190). -/

namespace Sys2Proof.Machine

/-- R72: `nnn` zero-extended to 16 bits. -/
def zext16 (nnn : Addr12) : Word := nnn.setWidth 16

/-- R107: `nnn + V0`, not reduced modulo 0x1000. -/
def offsetTarget (nnn : Addr12) (v0 : Byte) : Word := BitVec.ofNat 16 (nnn.toNat + v0.toNat)

/-- R7, D3: which register a shift shifts. -/
inductive ShiftSource where
  | vx
  | vy
  deriving DecidableEq, Repr

/-- R7: the parameter SHIFT_SOURCE of this hardware (log entry 4). -/
def shiftSource : ShiftSource := .vx

/-- R139, R141: the byte a shift shifts, under either value of the parameter. -/
def shiftOperand (p : ShiftSource) (x y : Reg) (s : State) : Byte :=
  match p with
  | .vx => s.getV x
  | .vy => s.getV y

/-- R58: the base of every data access, an unbounded integer; the addresses are `I + k` and never wrap. -/
def State.base (s : State) : Nat := s.index.toNat

/-- R223, R224: how many registers V0..Vx are. -/
def rangeCount (x : Reg) : Nat := x.toNat + 1

/-- R223: V0, V1, …: the first `n` registers, in ascending order. -/
def State.firstRegs (s : State) (n : Nat) : List Byte := s.v.toList.take n

/-- R224: load registers `k`, `k + 1`, … with the bytes given, in ascending order. -/
def State.loadRegs (s : State) (k : Nat) : List Byte → State
  | [] => s
  | b :: bs => State.loadRegs (s.setV (BitVec.ofNat 4 k) b) (k + 1) bs

/-- R222, D16: hundreds, tens and ones. -/
def bcdDigits (b : Byte) : List Byte :=
  [BitVec.ofNat 8 (b.toNat / 100), BitVec.ofNat 8 (b.toNat / 10 % 10), BitVec.ofNat 8 (b.toNat % 10)]

/-- R173: the address of a digit's glyph. -/
def glyphAddress (d : Byte) : Word := BitVec.ofNat 16 (fontBase + 5 * d.toNat)

/-- R173, R190, R191: a register used as a digit or a key index must hold at most 15; else OperandOutOfRange with the
instruction's word, which the meanings give by `encode` (DEDUCED, log entry 15). -/
def checkOperand (v : Byte) (w : Word) : Option FatalError :=
  if v.toNat > 0xF then some (.operandOutOfRange w) else none

/-- The key index in a register that `checkOperand` has passed. -/
def keyIndex (v : Byte) : Reg := v.setWidth 4

end Sys2Proof.Machine
end

