-- ==== Sys2Proof/Machine/Alu.lean ====
section
/-! DEFINITION. Register and ALU instructions (42_alu.md). Operands are read from the state the instruction starts in, and
none of these can raise a fatal error. -/

namespace Sys2Proof.Machine

/-- A result without a flag goes to `V[x]`, and `pc` to `next` (R131 to R136, R142). -/
def State.writeReg (s : State) (x : Reg) (result : Byte) : State := (s.setV x result).advance

/-- R131: LD Vx, byte. -/
def execLdImm (x : Reg) (nn : Byte) (s : State) : Result := .next (s.writeReg x nn)

/-- R132: ADD Vx, byte: modulo 256, no flag. -/
def execAddImm (x : Reg) (nn : Byte) (s : State) : Result := .next (s.writeReg x (s.getV x + nn))

/-- R133: LD Vx, Vy. -/
def execLdReg (x y : Reg) (s : State) : Result := .next (s.writeReg x (s.getV y))

/-- R134: OR Vx, Vy; VF is not reset. -/
def execOrReg (x y : Reg) (s : State) : Result := .next (s.writeReg x (s.getV x ||| s.getV y))

/-- R135: AND Vx, Vy. -/
def execAndReg (x y : Reg) (s : State) : Result := .next (s.writeReg x (s.getV x &&& s.getV y))

/-- R136: XOR Vx, Vy. -/
def execXorReg (x y : Reg) (s : State) : Result := .next (s.writeReg x (s.getV x ^^^ s.getV y))

/-- R137: ADD Vx, Vy with carry. -/
def execAddReg (x y : Reg) (s : State) : Result :=
  .next (s.writeWithFlag x (s.getV x + s.getV y) (carryFlag (s.getV x) (s.getV y)))

/-- R138: SUB Vx, Vy: Vx − Vy, with no-borrow. -/
def execSubReg (x y : Reg) (s : State) : Result :=
  .next (s.writeWithFlag x (s.getV x - s.getV y) (noBorrowFlag (s.getV x) (s.getV y)))

/-- R140: SUBN Vx, Vy: Vy − Vx, with no-borrow. -/
def execSubnReg (x y : Reg) (s : State) : Result :=
  .next (s.writeWithFlag x (s.getV y - s.getV x) (noBorrowFlag (s.getV y) (s.getV x)))

/-- R139 under a value of SHIFT_SOURCE: one bit to the right. -/
def shrUnder (p : ShiftSource) (x y : Reg) (s : State) : Result :=
  .next (s.writeWithFlag x (shiftOperand p x y s >>> 1) (shiftedOutRight (shiftOperand p x y s)))

/-- R141 under a value of SHIFT_SOURCE: one bit to the left. -/
def shlUnder (p : ShiftSource) (x y : Reg) (s : State) : Result :=
  .next (s.writeWithFlag x (shiftOperand p x y s <<< 1) (shiftedOutLeft (shiftOperand p x y s)))

/-- R139: SHR Vx, with this hardware's SHIFT_SOURCE. -/
def execShr (x y : Reg) (s : State) : Result := shrUnder shiftSource x y s

/-- R141: SHL Vx, with this hardware's SHIFT_SOURCE. -/
def execShl (x y : Reg) (s : State) : Result := shlUnder shiftSource x y s

/-- R142: RND Vx, byte: a draw made anew, masked with `nn`. -/
def execRnd (x : Reg) (nn : Byte) (s : State) : Result :=
  .next ((s.setDraws (s.draws + 1)).writeReg x (Config.drawByte s.draws &&& nn))

end Sys2Proof.Machine
end

