-- ==== Sys2Proof/Machine/Control.lean ====
section
/-! DEFINITION. Control transfer: return, jump, call and the skips (41_control_flow.md). Targets are not checked here but
at the next fetch (R108). -/

namespace Sys2Proof.Machine

/-- R100: RET pops the return address into `pc`; StackUnderflow at depth 0. -/
def execRet (s : State) : Result :=
  match s.stack.getLast? with
  | none => raise .stackUnderflow s
  | some t => .next ((s.setStack s.stack.dropLast).setPc t)

/-- R101: JP addr. -/
def execJp (nnn : Addr12) (s : State) : Result := .next (s.setPc (zext16 nnn))

/-- R102: CALL addr pushes `next`; StackOverflow at depth 16. -/
def execCall (nnn : Addr12) (s : State) : Result :=
  checked (if s.depth ≥ 16 then some .stackOverflow else none) s ((s.push s.nextPc).setPc (zext16 nnn))

/-- R103: SE Vx, byte. -/
def execSeImm (x : Reg) (nn : Byte) (s : State) : Result := .next (s.skipIf (s.getV x == nn))

/-- R104: SNE Vx, byte. -/
def execSneImm (x : Reg) (nn : Byte) (s : State) : Result := .next (s.skipIf (s.getV x != nn))

/-- R105: SE Vx, Vy. -/
def execSeReg (x y : Reg) (s : State) : Result := .next (s.skipIf (s.getV x == s.getV y))

/-- R106: SNE Vx, Vy. -/
def execSneReg (x y : Reg) (s : State) : Result := .next (s.skipIf (s.getV x != s.getV y))

/-- R107: JP V0, addr; the offset register is always V0 (D35). -/
def execJpV0 (nnn : Addr12) (s : State) : Result := .next (s.setPc (offsetTarget nnn (s.getV 0#4)))

end Sys2Proof.Machine
end

