-- ==== Sys2Proof/Machine/Display.lean ====
section
/-! DEFINITION. Display instructions: clear, draw, glyph address (43_display.md). -/

namespace Sys2Proof.Machine

/-- R170: CLS. -/
def execCls (s : State) : Result := .next (s.setScreen clearScreen).advance

/-- R171: DRW Vx, Vy, nibble. The sprite's addresses are checked before anything is written; the coordinates are read
before VF is. -/
def execDrw (x y : Reg) (n : Nibble) (s : State) : Result :=
  let drawn := drawSprite (readBytes s.mem s.base n.toNat) (s.getV x) (s.getV y) s.fb
  checked (checkRead s.base n.toNat) s ((s.setScreen drawn.1).setV VF (flagByte drawn.2)).advance

/-- R173: LD F, Vx. -/
def execLdF (x : Reg) (s : State) : Result :=
  checked (checkOperand (s.getV x) (encode (.ldF x))) s (s.setIndex (glyphAddress (s.getV x))).advance

end Sys2Proof.Machine
end

