-- ==== Sys2Proof/Machine/IndexMemory.lean ====
section
/-! DEFINITION. Index register and memory instructions (46_index_memory.md). Every address is checked before any access,
and none of these changes I but ANNN and FX1E (D15). -/

namespace Sys2Proof.Machine

/-- R220: LD I, addr. -/
def execLdI (nnn : Addr12) (s : State) : Result := .next (s.setIndex (zext16 nnn)).advance

/-- R221: ADD I, Vx: modulo 2^16, no flag. -/
def execAddI (x : Reg) (s : State) : Result := .next (s.setIndex (s.index + (s.getV x).setWidth 16)).advance

/-- R222, R223: store bytes at I, I+1, …, or raise the first failing address and write nothing. -/
def storeAtIndex (bytes : List Byte) (s : State) : Result :=
  checked (checkWrite s.base bytes.length) s (s.setMem (writeBytes s.mem s.base bytes)).advance

/-- R222: LD B, Vx. -/
def execLdB (x : Reg) (s : State) : Result := storeAtIndex (bcdDigits (s.getV x)) s

/-- R223: LD [I], Vx. -/
def execStRange (x : Reg) (s : State) : Result := storeAtIndex (s.firstRegs (rangeCount x)) s

/-- R224: LD Vx, [I]. -/
def execLdRange (x : Reg) (s : State) : Result :=
  checked (checkRead s.base (rangeCount x)) s (s.loadRegs 0 (readBytes s.mem s.base (rangeCount x))).advance

end Sys2Proof.Machine
end

