-- ==== Sys2Proof/Machine/Input.lean ====
section
/-! DEFINITION. Input instructions: key skips and key-wait (44_input.md). -/

namespace Sys2Proof.Machine

/-- R190: SKP Vx. -/
def execSkp (x : Reg) (s : State) : Result :=
  checked (checkOperand (s.getV x) (encode (.skp x))) s (s.skipIf (s.key (keyIndex (s.getV x))))

/-- R191: SKNP Vx. -/
def execSknp (x : Reg) (s : State) : Result :=
  checked (checkOperand (s.getV x) (encode (.sknp x))) s (s.skipIf (!s.key (keyIndex (s.getV x))))

/-- R192: LD Vx, K suspends; `pc` stays at the instruction until the wait is resolved (R193). -/
def execLdK (x : Reg) (s : State) : Result := .next (s.setRun (.awaitingKey x))

end Sys2Proof.Machine
end

