-- ==== Sys2Proof/Machine/Timers.lean ====
section
/-! DEFINITION. Timer access instructions (45_timer_access.md). -/

namespace Sys2Proof.Machine

/-- R210: LD Vx, DT. -/
def execLdDT (x : Reg) (s : State) : Result := .next (s.setV x s.dt).advance

/-- R211: LD DT, Vx. -/
def execSetDT (x : Reg) (s : State) : Result := .next (s.setDT (s.getV x)).advance

/-- R212: LD ST, Vx. -/
def execSetST (x : Reg) (s : State) : Result := .next (s.setST (s.getV x)).advance

end Sys2Proof.Machine
end

