-- ==== Sys2Proof/Machine/HostCalls.lean ====
section
/-! DEFINITION. The host's transactions other than `cycle()` (60_exceptions.md R255, R261, R270; 44_input.md R193;
70_reset_and_hazards.md R290, R292). -/

namespace Sys2Proof.Machine

/-- R255: a counter falls by 1 and stops at 0. -/
def tickCounter (b : Byte) : Byte := if b.toNat > 0 then b - 1#8 else b

/-- R255: `tick_timers()`, in any run state (R256). -/
def tickTimers (s : State) : State := (s.setDT (tickCounter s.dt)).setST (tickCounter s.st)

/-- R193: `resolve_wait(value)` with a key index; in a state other than AwaitingKey it has no effect (D13). -/
def resolveWait (k : Reg) (s : State) : State :=
  match s.run with
  | .awaitingKey x => ((s.setV x (k.setWidth 8)).setPc (s.pc + 2#16)).setRun .running
  | .running => s
  | .halted _ => s

/-- R290: `reset()` replaces the whole machine state. What is not the machine's stays: the host's remaining schedule and
the count of draws (log entry 3). -/
def resetMachine (s : State) : State := (State.reset.setDraws s.draws).setCalls s.calls

/-- R7, R292: the largest ROM. -/
def maxRom : Nat := 0xE00

/-- R292: `load_rom(bytes)`: a ROM that is too large changes nothing (R241); else reset, then the bytes from 0x200 on. -/
def loadRom (bytes : List Byte) (s : State) : State :=
  if bytes.length > maxRom then s
  else (resetMachine s).setMem (writeBytes (resetMachine s).mem progBase bytes)

/-- R261, R270: the host's duties: a key index or a key value is at most 15. -/
def HostCall.dutyKept : HostCall → Bool
  | .setKey index _ => decide (index ≤ 15)
  | .resolveWait value => decide (value ≤ 15)
  | .reset => true
  | .loadRom _ => true
  | .cycle => true
  | .tickTimers => true
  | .readPixels => true
  | .readDebug => true
  | .readSound => true

/-- R270: what the host gets back from a transaction. -/
inductive HostReply where
  /-- Nothing is returned. -/
  | nothing
  /-- `Ok`. -/
  | ok
  /-- `Err(e)` from `cycle()` (R243, R80). -/
  | err (e : FatalError)
  /-- `Err(RomTooLarge)` from `load_rom` (R241). -/
  | romTooLarge
  /-- The pixel grid snapshot. -/
  | pixels (fb : FrameBuffer)
  /-- V0 to VF, `pc`, the stack and I. -/
  | debug (v : Vector Byte 16) (pc : Word) (stack : List Word) (index : Word)
  /-- `sound_active`. -/
  | sound (active : Bool)
  deriving DecidableEq, Repr

/-- R78, R80, R243: `cycle()` returns `Err(e)` exactly if the run state it leaves is `Halted(e)`. -/
def cycleReply (after : State) : HostReply :=
  match after.run with
  | .halted e => .err e
  | .running => .ok
  | .awaitingKey _ => .ok

/-- R292: what `load_rom` returns. -/
def loadReply (bytes : List Byte) : HostReply := if bytes.length > maxRom then .romTooLarge else .ok

end Sys2Proof.Machine
end

