-- ==== Sys2Proof/Machine/Cycle.lean ====
section
/-! DEFINITION. The instruction cycle (30_encoding.md R78, R79, R80) and the performance of one transaction of the host
(60_exceptions.md R270, R271). -/

namespace Sys2Proof.Machine

/-- R78: fetch, decode and execute one instruction. The checks come in R246's order. -/
def runCycle (s : State) : Result :=
  match fetchFault s.pc with
  | some e => raise e s
  | none =>
    match decode (fetch16 s.mem s.pc.toNat) with
    | .unknownOpcode w => raise (.unknownOpcode w) s
    | .instr i => exec i s

/-- `cycle()` in any run state: R78 when running; R79 while awaiting a key and R80 once halted it does nothing. -/
def cycle (s : State) : Result :=
  match s.run with
  | .running => runCycle s
  | .awaitingKey _ => .next s
  | .halted _ => .next s

/-- R270: perform one transaction. A call that breaks the host's duty has no move (R193, R261). -/
def transact (c : HostCall) (s : State) : Result :=
  match c with
  | .reset => .next (resetMachine s)
  | .loadRom bytes => .next (loadRom bytes s)
  | .cycle => cycle s
  | .tickTimers => .next (tickTimers s)
  | .setKey index pressed =>
    if index ≤ 15 then .next (s.setKey (BitVec.ofNat 4 index) pressed) else .fault (.setKeyOutOfRange index)
  | .resolveWait value =>
    if value ≤ 15 then .next (resolveWait (BitVec.ofNat 4 value) s) else .fault (.resolveWaitOutOfRange value)
  | .readPixels => .next s
  | .readDebug => .next s
  | .readSound => .next s

/-- R271: the host's schedule decides which transaction comes next; with none left it is `cycle()` (log entry 1). -/
def performNext (s : State) : Result :=
  match s.calls with
  | [] => cycle s
  | c :: rest => transact c (s.setCalls rest)

/-- R270: what the host gets from a transaction made in state `s`. -/
def replyTo (c : HostCall) (s : State) : HostReply :=
  match c with
  | .reset => .nothing
  | .loadRom bytes => loadReply bytes
  | .cycle =>
    match cycle s with
    | .next t => cycleReply t
    | .fault _ => .nothing
    | .refused _ => .nothing
  | .tickTimers => .nothing
  | .setKey _ _ => .nothing
  | .resolveWait _ => .nothing
  | .readPixels => .pixels s.fb
  | .readDebug => .debug s.v s.pc s.stack s.index
  | .readSound => .sound s.soundActive

/-- Where an instruction is placed to be run next: at `pc`, or at 0x200 where no fetch is possible at `pc`. -/
def fetchSlot (s : State) : Word := if (fetchFault s.pc).isNone then s.pc else 0x200#16

/-- `s` with a word placed where the next cycle fetches it, running, and with no other transaction before that cycle. -/
def placeWord (s : State) (w : Word) : State :=
  (((s.setPc (fetchSlot s)).setRun .running).setCalls []).setMem
    (writeBytes s.mem (fetchSlot s).toNat (bytesOfWord w))

end Sys2Proof.Machine
end

