-- ==== Sys2Proof/Machine/Step.lean ====
section
/-! DEFINITION. One step of the machine: one transaction of the host, `cycle()` where none is scheduled. -/

namespace Sys2Proof.Machine

/-- R270, R271: transactions are serial, so one step performs one. -/
def step (s : State) : Host.Outcome State Fault Refusal := performNext s

/-- `s` with the table word `w` stored where `step` fetches its next instruction (log entry 8). -/
def State.withFetchWord (s : State) (nbits w : Nat) : State := placeWord s (tableWord nbits w)

end Sys2Proof.Machine
end

