-- ==== Sys2Proof/Safety.lean ====
section
/-! DEFINITION. The terms claims are stated in: what a step may be trusted to keep (`State.Inv`), what a frame keeps, which
pixels a sprite covers, and the end of a run. -/

namespace Sys2Proof.Machine

/-! ## The invariant of every step (R24, R25, R37, R53, R59, R100) -/

/-- What every step keeps: memory is in canonical form and never written below 0x200; the stack holds at most 16
addresses, each even and at most 0x1000; `pc` is at most 0x10FE; and a key-wait stands at a place that can be fetched. -/
structure State.Inv (s : State) : Prop where
  memCanonical : Memory.wf s.mem
  memUnprotected : ∀ c ∈ s.mem, progBase ≤ c.1
  depthBound : s.stack.length ≤ 16
  returnAddresses : ∀ a ∈ s.stack, a.toNat % 2 = 0 ∧ a.toNat ≤ 0x1000
  pcBound : s.pc.toNat ≤ 0x10FE
  waitFetchable : ∀ x, s.run = .awaitingKey x → fetchFault s.pc = none

/-- R32, R245: the session is not over: no fatal error has been raised since the last reset. -/
def State.alive (s : State) : Prop := ∀ e, s.run ≠ .halted e

/-- R275, D36: the conventional end of a program: `pc` stands at a `1NNN` word that jumps to itself. -/
def State.atSelfJump (s : State) : Prop :=
  fetchFault s.pc = none ∧ ∃ nnn, decode (fetch16 s.mem s.pc.toNat) = .instr (.jp nnn) ∧ zext16 nnn = s.pc

/-- The cycle can fetch here: running, `pc` even and at most 0xFFE (R78). -/
def State.canFetch (s : State) : Prop := s.run = .running ∧ s.pc.toNat % 2 = 0 ∧ s.pc.toNat ≤ 0xFFE

/-! ## Frames: what goes from `s` to `t` unchanged -/

/-- Every general register. -/
def KeepsRegs (s t : State) : Prop := ∀ r, t.getV r = s.getV r

/-- Every general register but `x`. -/
def KeepsRegsBut (x : Reg) (s t : State) : Prop := ∀ r, r ≠ x → t.getV r = s.getV r

/-- Every byte of memory. -/
def KeepsMemory (s t : State) : Prop := ∀ a, readByte t.mem a = readByte s.mem a

/-- Every byte of memory outside the `n` bytes from `base` on. -/
def KeepsMemoryOutside (base n : Nat) (s t : State) : Prop :=
  ∀ a, (a < base ∨ base + n ≤ a) → readByte t.mem a = readByte s.mem a

/-- The timers and the keys. -/
def KeepsTimersKeys (s t : State) : Prop := t.dt = s.dt ∧ t.st = s.st ∧ t.keys = s.keys

/-- The call stack and the run state. -/
def KeepsStackRun (s t : State) : Prop := t.stack = s.stack ∧ t.run = s.run

/-- The model's own fields. -/
def KeepsHost (s t : State) : Prop := t.draws = s.draws ∧ t.calls = s.calls

/-- Everything but the general registers and `pc`. -/
def KeepsBesidesRegs (s t : State) : Prop :=
  t.index = s.index ∧ KeepsMemory s t ∧ t.fb = s.fb ∧ KeepsTimersKeys s t ∧ KeepsStackRun s t ∧ KeepsHost s t

/-- Everything but the index register and `pc`. -/
def KeepsBesidesIndex (s t : State) : Prop :=
  KeepsRegs s t ∧ KeepsMemory s t ∧ t.fb = s.fb ∧ KeepsTimersKeys s t ∧ KeepsStackRun s t ∧ KeepsHost s t

/-- Everything but memory and `pc`. -/
def KeepsBesidesMemory (s t : State) : Prop :=
  KeepsRegs s t ∧ t.index = s.index ∧ t.fb = s.fb ∧ KeepsTimersKeys s t ∧ KeepsStackRun s t ∧ KeepsHost s t

/-- Everything but the screen, the general registers and `pc`. -/
def KeepsBesidesScreenRegs (s t : State) : Prop :=
  t.index = s.index ∧ KeepsMemory s t ∧ KeepsTimersKeys s t ∧ KeepsStackRun s t ∧ KeepsHost s t

/-- Everything but `pc`. -/
def KeepsBesidesPc (s t : State) : Prop := KeepsRegs s t ∧ KeepsBesidesRegs s t

/-! ## Drawing (R171, R172) -/

/-- Does an `n`-row sprite at `(x0, y0)` have a set bit on pixel `(x, y)`, wrapping at both edges: its row is the distance
down from `y0`, its column the distance right from `x0`, and bit 7 is the leftmost. -/
def spriteCovers (row : Nat → Byte) (n x0 y0 : Nat) (x : Fin 64) (y : Fin 32) : Bool :=
  let r := (y.val + 32 - y0 % 32) % 32
  let c := (x.val + 64 - x0 % 64) % 64
  decide (r < n) && decide (c < 8) && (row r).getLsbD (7 - c)

/-- The sprite bytes DRW reads: row `r` is the byte at `I + r`. -/
def State.spriteRow (s : State) (r : Nat) : Byte := readByte s.mem (s.base + r)

/-! ## Illegal words (R75) -/

/-- R75: the illegal words, family by family. -/
def illegalByFamily (w : Word) : Prop :=
  (opField w = 0x0#4 ∧ w ≠ 0x00E0#16 ∧ w ≠ 0x00EE#16) ∨
  ((opField w = 0x5#4 ∨ opField w = 0x9#4) ∧ nField w ≠ 0#4) ∨
  (opField w = 0x8#4 ∧ nField w ∈ [0x8#4, 0x9#4, 0xA#4, 0xB#4, 0xC#4, 0xD#4, 0xF#4]) ∨
  (opField w = 0xE#4 ∧ nnField w ∉ [0x9E#8, 0xA1#8]) ∨
  (opField w = 0xF#4 ∧
    nnField w ∉ [0x07#8, 0x0A#8, 0x15#8, 0x18#8, 0x1E#8, 0x29#8, 0x33#8, 0x55#8, 0x65#8])

/-! ## Groups of instructions the whole-machine rules name -/

/-- R21: the six instructions that write VF as a flag. -/
def writesFlag : Instr → Bool
  | .addReg _ _ => true
  | .subReg _ _ => true
  | .shr _ _ => true
  | .subnReg _ _ => true
  | .shl _ _ => true
  | .drw _ _ _ => true
  | _ => false

/-- The register an instruction names as its destination; FX65 loads every register up to its `x`. -/
def namesDest (i : Instr) (r : Reg) : Prop :=
  match i with
  | .ldImm x _ | .addImm x _ | .ldReg x _ | .orReg x _ | .andReg x _ | .xorReg x _ | .addReg x _ | .subReg x _
  | .shr x _ | .subnReg x _ | .shl x _ | .rnd x _ | .ldDT x => r = x
  | .ldRange x => r.toNat ≤ x.toNat
  | _ => False

/-- R242: the codes of the fatal errors an instruction can raise once decoded; nine forms have one. -/
def faultCodes : Instr → List Nat
  | .ret => [3]
  | .call _ => [2]
  | .drw _ _ _ => [4]
  | .ldB _ => [4, 5]
  | .stRange _ => [4, 5]
  | .ldRange _ => [4]
  | .skp _ => [7]
  | .sknp _ => [7]
  | .ldF _ => [7]
  | _ => []

/-- R57: the instructions that touch memory. -/
def touchesMemory : Instr → Bool
  | .drw _ _ _ => true
  | .ldB _ => true
  | .stRange _ => true
  | .ldRange _ => true
  | _ => false

end Sys2Proof.Machine
end

