-- ==== Sys2Proof/Certificates/Slice0/Obligations.lean ====
section
/-! DEFINITION. The statements for the provers, in the order of OBLIGATIONS.json: the encoding, the cycle and its fatal
errors, each instruction family with its frames and traps, the host's transactions, and the rules of the whole machine.
A statement that rests on one of the spec's own decisions (92_eei_decisions.md) or on a choice of the model says so. -/

open Sys2Proof Sys2Proof.Machine

/-! ## Encoding -/

/-- R71, R73: words written out from the patterns decode to the instructions they stand for, one or more a family. (The
patterns are the spec's general knowledge, D1; log entry 7.) -/
def Obligations.SpecWordsDecodeToTheirInstructions : Prop :=
  decode 0x00E0#16 = .instr .cls ∧ decode 0x00EE#16 = .instr .ret ∧
  decode 0x1228#16 = .instr (.jp 0x228#12) ∧ decode 0x3310#16 = .instr (.seImm 3#4 0x10#8) ∧
  decode 0x8014#16 = .instr (.addReg 0#4 1#4) ∧ decode 0x8F16#16 = .instr (.shr 0xF#4 1#4) ∧
  decode 0xD015#16 = .instr (.drw 0#4 1#4 5#4) ∧ decode 0xE59E#16 = .instr (.skp 5#4) ∧
  decode 0xF407#16 = .instr (.ldDT 4#4) ∧ decode 0xA2F0#16 = .instr (.ldI 0x2F0#12) ∧
  decode 0xF265#16 = .instr (.ldRange 2#4) ∧ decode 0x0123#16 = .unknownOpcode 0x0123#16

/-- R71, R73, R81: decoding the word of any instruction gives it back, with every operand, from a word or from the
big-endian bytes in front of any others (R55). -/
def Obligations.DecodingAnEncodedInstructionGivesItBack : Prop :=
  ∀ (i : Instr) (rest : List Byte), i.wellFormed = true →
    decode (encode i) = .instr i ∧ decodeBytes (bytesOfWord (encode i) ++ rest) = .first (.instr i) rest

/-- R74, R83: a word that decodes is the word its instruction assembles to, so no word has a don't-care bit; and a word
that does not decode is reported whole (R75). -/
def Obligations.EncodingADecodedWordGivesItBack : Prop :=
  ∀ (w : Word), (∀ i, decode w = .instr i → encode i = w) ∧ (∀ u, decode w = .unknownOpcode u → u = w)

/-- R75, R77: the words that do not decode are exactly those R75 lists by family. -/
def Obligations.IllegalWordsAreExactlyTheListedOnes : Prop :=
  ∀ (w : Word), decode w = .unknownOpcode w ↔ illegalByFamily w

/-- R73, R75: a word decodes exactly if it matches a row of the opcode map by match and mask, and never two rows. -/
def Obligations.DecoderAgreesWithTheOpcodeMap : Prop :=
  ∀ (w : Word), ((∃ i, decode w = .instr i) ↔ legalWord w = true) ∧
    (∀ r ∈ opcodeMap, ∀ q ∈ opcodeMap, r.holds w = true → q.holds w = true → r = q)

/-! ## The cycle -/

/-- R78: where the word at `pc` decodes, a step is the execution of that instruction: with no transaction scheduled, and
with a `cycle()` scheduled first, which is then taken from the schedule (the model's own field, log entry 1). -/
def Obligations.StepRunsTheDecodedInstruction : Prop :=
  ∀ (s : State) (i : Instr), s.canFetch → i.wellFormed = true → decode (fetch16 s.mem s.pc.toNat) = .instr i →
    (s.calls = [] → step s = exec i s) ∧
    (∀ rest, s.calls = .cycle :: rest → step s = exec i (s.setCalls rest))

/-- R60, R78: a running cycle with `pc` odd or above 0xFFE halts with PcOutOfRange(pc), changes nothing else and returns
the error. (The spec's own decision D5; log entry 9.) -/
def Obligations.FetchOutsideTheEvenAddressesHalts : Prop :=
  ∀ (s : State), s.run = .running → (s.pc.toNat % 2 = 1 ∨ 0xFFE < s.pc.toNat) →
    cycle s = .next { s with run := .halted (.pcOutOfRange s.pc) } ∧
    replyTo .cycle s = .err (.pcOutOfRange s.pc)

/-- R75, R78, R243: a running cycle that fetches an illegal word halts with UnknownOpcode of the whole word, changes
nothing else and returns the error. -/
def Obligations.FetchingAnIllegalWordHalts : Prop :=
  ∀ (s : State), s.canFetch → illegalByFamily (fetch16 s.mem s.pc.toNat) →
    cycle s = .next { s with run := .halted (.unknownOpcode (fetch16 s.mem s.pc.toNat)) } ∧
    replyTo .cycle s = .err (.unknownOpcode (fetch16 s.mem s.pc.toNat))

/-- R79: a cycle while awaiting a key does nothing and returns Ok. -/
def Obligations.CycleWhileAwaitingAKeyDoesNothing : Prop :=
  ∀ (s : State) (x : Reg), s.run = .awaitingKey x → cycle s = .next s ∧ replyTo .cycle s = .ok

/-- R80, R245: a cycle once halted does nothing and returns the same error again, and no transaction but a reset or a load
leaves the halted state. (The spec's own decision D23; log entry 9.) -/
def Obligations.HaltedStateIsLeftOnlyByResetOrLoad : Prop :=
  ∀ (s : State) (e : FatalError), s.run = .halted e →
    cycle s = .next s ∧ replyTo .cycle s = .err e ∧
    (∀ c t, c ≠ .reset → (∀ bytes, c ≠ .loadRom bytes) → transact c s = .next t → t.run = .halted e)

/-- R243, R244: a fatal error is precise: the cycle that raises it changes the run state and nothing else, and returns
the error. (R244 is the spec's own extension of the source's guarantee, D9; log entry 9.) -/
def Obligations.FatalErrorsArePrecise : Prop :=
  ∀ (s t : State) (e : FatalError), s.run = .running → cycle s = .next t → t.run = .halted e →
    t = { s with run := .halted e } ∧ replyTo .cycle s = .err e

/-- R242: once decoded, an instruction raises only the fatal errors R242 lists for it, so 25 of the forms raise none. -/
def Obligations.InstructionsRaiseOnlyTheirListedErrors : Prop :=
  ∀ (i : Instr) (s t : State) (e : FatalError), s.run = .running → exec i s = .next t → t.run = .halted e →
    e.code ∈ faultCodes i

/-- R243, R249: every instruction answers a next state in every state: none ends in a stuck state or a refusal. -/
def Obligations.EveryInstructionAnswersANextState : Prop :=
  ∀ (i : Instr) (s : State), ∃ t, exec i s = .next t

/-! ## Control transfer -/

/-- R100: RET pops the last entry into `pc` and changes nothing else. -/
def Obligations.ReturnPopsTheStackIntoPc : Prop :=
  decode 0x00EE#16 = .instr .ret ∧
  (∀ (s : State) (l : List Word) (a : Word), s.stack = l ++ [a] → exec .ret s = .next { s with stack := l, pc := a }) ∧
  (∀ (s : State), s.stack = [] → exec .ret s = .next { s with run := .halted .stackUnderflow })

/-- R101: JP sets `pc` to the zero-extended address and changes nothing else. -/
def Obligations.JumpSetsPc : Prop :=
  ∀ (s : State) (nnn : Addr12), decode (0x1#4 ++ nnn) = .instr (.jp nnn) ∧
    exec (.jp nnn) s = .next { s with pc := nnn.setWidth 16 }

/-- R102: CALL pushes the address after it and jumps; at depth 16 it halts with StackOverflow, changing nothing else. -/
def Obligations.CallPushesTheReturnAddress : Prop :=
  ∀ (s : State) (nnn : Addr12), decode (0x2#4 ++ nnn) = .instr (.call nnn) ∧
    (s.stack.length < 16 →
      exec (.call nnn) s = .next { s with stack := s.stack ++ [s.pc + 2#16], pc := nnn.setWidth 16 }) ∧
    (s.stack.length = 16 → exec (.call nnn) s = .next { s with run := .halted .stackOverflow })

/-- R103, R104: the skips on a byte go to `pc + 4` or `pc + 2` and change nothing else. -/
def Obligations.SkipsOnAByte : Prop :=
  ∀ (s : State) (x : Reg) (nn : Byte),
    decode (0x3#4 ++ x ++ nn) = .instr (.seImm x nn) ∧ decode (0x4#4 ++ x ++ nn) = .instr (.sneImm x nn) ∧
    exec (.seImm x nn) s = .next { s with pc := if s.getV x = nn then s.pc + 4#16 else s.pc + 2#16 } ∧
    exec (.sneImm x nn) s = .next { s with pc := if s.getV x ≠ nn then s.pc + 4#16 else s.pc + 2#16 }

/-- R105, R106: the skips on two registers go to `pc + 4` or `pc + 2` and change nothing else; a low nibble other than 0
is illegal. -/
def Obligations.SkipsOnTwoRegisters : Prop :=
  ∀ (s : State) (x y : Reg),
    decode (0x5#4 ++ x ++ y ++ 0x0#4) = .instr (.seReg x y) ∧ decode (0x9#4 ++ x ++ y ++ 0x0#4) = .instr (.sneReg x y) ∧
    (∀ n : Nibble, n ≠ 0#4 → decode (0x5#4 ++ x ++ y ++ n) = .unknownOpcode (0x5#4 ++ x ++ y ++ n) ∧
      decode (0x9#4 ++ x ++ y ++ n) = .unknownOpcode (0x9#4 ++ x ++ y ++ n)) ∧
    exec (.seReg x y) s = .next { s with pc := if s.getV x = s.getV y then s.pc + 4#16 else s.pc + 2#16 } ∧
    exec (.sneReg x y) s = .next { s with pc := if s.getV x ≠ s.getV y then s.pc + 4#16 else s.pc + 2#16 }

/-- R107: JP V0 sets `pc` to `nnn + V0`, not reduced, and changes nothing else. (Included by the spec's own decision D2,
offset register V0 by D35; log entry 7.) -/
def Obligations.JumpWithOffsetIsNotReduced : Prop :=
  ∀ (s : State) (nnn : Addr12), decode (0xB#4 ++ nnn) = .instr (.jpV0 nnn) ∧
    ∃ t, exec (.jpV0 nnn) s = .next t ∧ t.pc.toNat = nnn.toNat + (s.getV 0#4).toNat ∧ KeepsBesidesPc s t

/-! ## Registers and arithmetic -/

/-- R131, R133: LD Vx, byte and LD Vx, Vy write `V[x]`, advance, and change nothing else. -/
def Obligations.LoadAndCopyWriteOneRegister : Prop :=
  ∀ (s : State) (x y : Reg) (nn : Byte),
    decode (0x6#4 ++ x ++ nn) = .instr (.ldImm x nn) ∧ decode (0x8#4 ++ x ++ y ++ 0x0#4) = .instr (.ldReg x y) ∧
    (∃ t, exec (.ldImm x nn) s = .next t ∧ t.getV x = nn ∧ KeepsRegsBut x s t ∧ t.pc = s.pc + 2#16 ∧
      KeepsBesidesRegs s t) ∧
    (∃ t, exec (.ldReg x y) s = .next t ∧ t.getV x = s.getV y ∧ KeepsRegsBut x s t ∧ t.pc = s.pc + 2#16 ∧
      KeepsBesidesRegs s t)

/-- R132: ADD Vx, byte is modulo 256 and touches no flag: every register but `V[x]`, VF among them, is kept. -/
def Obligations.AddByteWrapsWithoutAFlag : Prop :=
  ∀ (s : State) (x : Reg) (nn : Byte), decode (0x7#4 ++ x ++ nn) = .instr (.addImm x nn) ∧
    ∃ t, exec (.addImm x nn) s = .next t ∧ (t.getV x).toNat = ((s.getV x).toNat + nn.toNat) % 256 ∧
      KeepsRegsBut x s t ∧ t.pc = s.pc + 2#16 ∧ KeepsBesidesRegs s t

/-- R134, R135, R136: OR, AND and XOR work bit by bit and touch no flag. -/
def Obligations.BitwiseOperationsTouchNoFlag : Prop :=
  ∀ (s : State) (x y : Reg),
    decode (0x8#4 ++ x ++ y ++ 0x1#4) = .instr (.orReg x y) ∧ decode (0x8#4 ++ x ++ y ++ 0x2#4) = .instr (.andReg x y) ∧
    decode (0x8#4 ++ x ++ y ++ 0x3#4) = .instr (.xorReg x y) ∧
    (∃ t, exec (.orReg x y) s = .next t ∧
      (∀ b, (t.getV x).getLsbD b = ((s.getV x).getLsbD b || (s.getV y).getLsbD b)) ∧
      KeepsRegsBut x s t ∧ t.pc = s.pc + 2#16 ∧ KeepsBesidesRegs s t) ∧
    (∃ t, exec (.andReg x y) s = .next t ∧
      (∀ b, (t.getV x).getLsbD b = ((s.getV x).getLsbD b && (s.getV y).getLsbD b)) ∧
      KeepsRegsBut x s t ∧ t.pc = s.pc + 2#16 ∧ KeepsBesidesRegs s t) ∧
    (∃ t, exec (.xorReg x y) s = .next t ∧
      (∀ b, (t.getV x).getLsbD b = ((s.getV x).getLsbD b ^^ (s.getV y).getLsbD b)) ∧
      KeepsRegsBut x s t ∧ t.pc = s.pc + 2#16 ∧ KeepsBesidesRegs s t)

/-- R137: ADD Vx, Vy writes the sum modulo 256 and then the carry, which is what VF holds even if it is the
destination. -/
def Obligations.AddRegistersSetsCarry : Prop :=
  ∀ (s : State) (x y : Reg), decode (0x8#4 ++ x ++ y ++ 0x4#4) = .instr (.addReg x y) ∧
    ∃ t, exec (.addReg x y) s = .next t ∧
      (x ≠ VF → (t.getV x).toNat = ((s.getV x).toNat + (s.getV y).toNat) % 256) ∧
      t.getV VF = (if (s.getV x).toNat + (s.getV y).toNat > 255 then 1#8 else 0#8) ∧
      (∀ r, r ≠ x → r ≠ VF → t.getV r = s.getV r) ∧ t.pc = s.pc + 2#16 ∧ KeepsBesidesRegs s t

/-- R138: SUB Vx, Vy writes Vx − Vy modulo 256 and then no-borrow, 1 when Vx ≥ Vy. -/
def Obligations.SubtractSetsNoBorrow : Prop :=
  ∀ (s : State) (x y : Reg), decode (0x8#4 ++ x ++ y ++ 0x5#4) = .instr (.subReg x y) ∧
    ∃ t, exec (.subReg x y) s = .next t ∧
      (x ≠ VF → ((t.getV x).toNat : Int) = ((s.getV x).toNat - (s.getV y).toNat : Int) % 256) ∧
      t.getV VF = (if (s.getV x).toNat ≥ (s.getV y).toNat then 1#8 else 0#8) ∧
      (∀ r, r ≠ x → r ≠ VF → t.getV r = s.getV r) ∧ t.pc = s.pc + 2#16 ∧ KeepsBesidesRegs s t

/-- R140: SUBN Vx, Vy writes Vy − Vx modulo 256 and then no-borrow, 1 when Vy ≥ Vx. -/
def Obligations.ReverseSubtractSetsNoBorrow : Prop :=
  ∀ (s : State) (x y : Reg), decode (0x8#4 ++ x ++ y ++ 0x7#4) = .instr (.subnReg x y) ∧
    ∃ t, exec (.subnReg x y) s = .next t ∧
      (x ≠ VF → ((t.getV x).toNat : Int) = ((s.getV y).toNat - (s.getV x).toNat : Int) % 256) ∧
      t.getV VF = (if (s.getV y).toNat ≥ (s.getV x).toNat then 1#8 else 0#8) ∧
      (∀ r, r ≠ x → r ≠ VF → t.getV r = s.getV r) ∧ t.pc = s.pc + 2#16 ∧ KeepsBesidesRegs s t

/-- R139: SHR shifts `V[x]` one bit to the right and then writes the bit moved out; under the option VY it shifts
`V[y]`. (That this hardware's SHIFT_SOURCE is VX is the spec's own decision D3; log entry 4.) -/
def Obligations.ShiftRightMovesBit0ToVF : Prop :=
  ∀ (s : State) (x y : Reg), decode (0x8#4 ++ x ++ y ++ 0x6#4) = .instr (.shr x y) ∧
    (∃ t, exec (.shr x y) s = .next t ∧
      (x ≠ VF → (t.getV x).toNat = (s.getV x).toNat / 2) ∧ (t.getV VF).toNat = (s.getV x).toNat % 2 ∧
      (∀ r, r ≠ x → r ≠ VF → t.getV r = s.getV r) ∧ t.pc = s.pc + 2#16 ∧ KeepsBesidesRegs s t) ∧
    (∃ t, shrUnder .vy x y s = .next t ∧
      (x ≠ VF → (t.getV x).toNat = (s.getV y).toNat / 2) ∧ (t.getV VF).toNat = (s.getV y).toNat % 2 ∧
      (∀ r, r ≠ x → r ≠ VF → t.getV r = s.getV r) ∧ t.pc = s.pc + 2#16 ∧ KeepsBesidesRegs s t)

/-- R141: SHL shifts `V[x]` one bit to the left and then writes the bit moved out; under the option VY it shifts `V[y]`.
(SHIFT_SOURCE as above, D3; log entry 4.) -/
def Obligations.ShiftLeftMovesBit7ToVF : Prop :=
  ∀ (s : State) (x y : Reg), decode (0x8#4 ++ x ++ y ++ 0xE#4) = .instr (.shl x y) ∧
    (∃ t, exec (.shl x y) s = .next t ∧
      (x ≠ VF → (t.getV x).toNat = 2 * (s.getV x).toNat % 256) ∧ (t.getV VF).toNat = (s.getV x).toNat / 128 ∧
      (∀ r, r ≠ x → r ≠ VF → t.getV r = s.getV r) ∧ t.pc = s.pc + 2#16 ∧ KeepsBesidesRegs s t) ∧
    (∃ t, shlUnder .vy x y s = .next t ∧
      (x ≠ VF → (t.getV x).toNat = 2 * (s.getV y).toNat % 256) ∧ (t.getV VF).toNat = (s.getV y).toNat / 128 ∧
      (∀ r, r ≠ x → r ≠ VF → t.getV r = s.getV r) ∧ t.pc = s.pc + 2#16 ∧ KeepsBesidesRegs s t)

/-- R142: RND writes the drawn byte masked with `nn`, so the bits outside `nn` are 0; the next draw is another one. (The
byte is a free value, log entry 2: the statement holds for every generator.) -/
def Obligations.RandomIsMaskedAndDrawnAnew : Prop :=
  ∀ (s : State) (x : Reg) (nn : Byte), decode (0xC#4 ++ x ++ nn) = .instr (.rnd x nn) ∧
    ∃ t, exec (.rnd x nn) s = .next t ∧
      (∀ b, (t.getV x).getLsbD b = ((Config.drawByte s.draws).getLsbD b && nn.getLsbD b)) ∧
      KeepsRegsBut x s t ∧ t.pc = s.pc + 2#16 ∧ t.draws = s.draws + 1 ∧ t.calls = s.calls ∧ t.index = s.index ∧
      KeepsMemory s t ∧ t.fb = s.fb ∧ KeepsTimersKeys s t ∧ KeepsStackRun s t

/-! ## Display -/

/-- R170: CLS clears every pixel, advances, and changes nothing else. -/
def Obligations.ClearScreenClearsEveryPixel : Prop :=
  decode 0x00E0#16 = .instr .cls ∧
  ∀ (s : State), ∃ t, exec .cls s = .next t ∧ (∀ px py, pixel t.fb px py = false) ∧ KeepsRegs s t ∧
    t.pc = s.pc + 2#16 ∧ KeepsBesidesScreenRegs s t

/-- R171, R172: the loop of DRW XORs exactly the pixels the sprite covers, wrapping at both edges; VF is 1 exactly if one
of them was set; with `n = 0` nothing is drawn and VF is 0. (Bit 7 leftmost and `n = 0` are the spec's own decisions D18
and D28; log entry 7.) -/
def Obligations.DrawXorsExactlyTheCoveredPixels : Prop :=
  ∀ (s : State) (x y : Reg) (n : Nibble),
    decode (0xD#4 ++ x ++ y ++ n) = .instr (.drw x y n) ∧
    (n = 0#4 ∨ s.base + n.toNat ≤ 0x1000 →
      ∃ t, exec (.drw x y n) s = .next t ∧
        (∀ px py, pixel t.fb px py = (pixel s.fb px py ^^
          spriteCovers s.spriteRow n.toNat ((s.getV x).toNat % 64) ((s.getV y).toNat % 32) px py)) ∧
        ((∃ px py, pixel s.fb px py = true ∧
            spriteCovers s.spriteRow n.toNat ((s.getV x).toNat % 64) ((s.getV y).toNat % 32) px py = true) →
          t.getV VF = 1#8) ∧
        (¬(∃ px py, pixel s.fb px py = true ∧
            spriteCovers s.spriteRow n.toNat ((s.getV x).toNat % 64) ((s.getV y).toNat % 32) px py = true) →
          t.getV VF = 0#8) ∧
        KeepsRegsBut VF s t ∧ t.pc = s.pc + 2#16 ∧ KeepsBesidesScreenRegs s t)

/-- R171, R58: a sprite that ends outside the address space halts with the first address that does not exist, and the
screen, VF and everything else are unchanged. (The spec's own decision D6; log entry 9.) -/
def Obligations.DrawFromOutsideMemoryHalts : Prop :=
  ∀ (s : State) (x y : Reg) (n : Nibble), n ≠ 0#4 → 0x1000 < s.base + n.toNat →
    exec (.drw x y n) s = .next { s with run := .halted (.memoryOutOfRange (max s.base 0x1000)) }

/-- R171: drawing the same sprite twice at the same place restores the screen, and the second draw reports a collision
exactly if some covered pixel was clear before the first. The registers may be rewritten in between (to `v`), so that the
second draw finds its coordinates again where the first wrote VF over one of them; with `v := t.v` they are left alone.
(R171's corner case says "if the sprite has any set bit", which its pseudocode gives on a clear area; log entry 12.) -/
def Obligations.DrawingTwiceRestoresTheScreen : Prop :=
  ∀ (s t u : State) (v : Vector Byte 16) (x y x' y' : Reg) (n : Nibble), n = 0#4 ∨ s.base + n.toNat ≤ 0x1000 →
    exec (.drw x y n) s = .next t →
    (State.getV { t with v := v } x').toNat % 64 = (s.getV x).toNat % 64 →
    (State.getV { t with v := v } y').toNat % 32 = (s.getV y).toNat % 32 →
    exec (.drw x' y' n) { t with v := v } = .next u →
    u.fb = s.fb ∧
    (u.getV VF = 1#8 ↔ ∃ px py, pixel s.fb px py = false ∧
      spriteCovers s.spriteRow n.toNat ((s.getV x).toNat % 64) ((s.getV y).toNat % 32) px py = true)

/-- R173: LD F sets I to the glyph of a digit of at most 15, advances, and changes nothing else; above 15 it halts with
OperandOutOfRange of its word. (Included by the spec's own decisions D2 and D11; log entries 7 and 9.) -/
def Obligations.GlyphAddressOfADigit : Prop :=
  ∀ (s : State) (x : Reg), decode (0xF#4 ++ x ++ 0x29#8) = .instr (.ldF x) ∧
    ((s.getV x).toNat ≤ 15 →
      ∃ t, exec (.ldF x) s = .next t ∧ t.index.toNat = 0x050 + 5 * (s.getV x).toNat ∧ t.pc = s.pc + 2#16 ∧
        KeepsBesidesIndex s t) ∧
    (15 < (s.getV x).toNat →
      exec (.ldF x) s = .next { s with run := .halted (.operandOutOfRange (0xF#4 ++ x ++ 0x29#8)) })

/-! ## Input -/

/-- R190, R191: the key skips read the key named by a register of at most 15 and change only `pc`; above 15 they halt with
OperandOutOfRange of their word. (The fault is the spec's own decision D10; log entry 9.) -/
def Obligations.SkipsOnAKey : Prop :=
  ∀ (s : State) (x k : Reg),
    decode (0xE#4 ++ x ++ 0x9E#8) = .instr (.skp x) ∧ decode (0xE#4 ++ x ++ 0xA1#8) = .instr (.sknp x) ∧
    ((s.getV x).toNat = k.toNat →
      exec (.skp x) s = .next { s with pc := if s.key k = true then s.pc + 4#16 else s.pc + 2#16 } ∧
      exec (.sknp x) s = .next { s with pc := if s.key k = false then s.pc + 4#16 else s.pc + 2#16 }) ∧
    (15 < (s.getV x).toNat →
      exec (.skp x) s = .next { s with run := .halted (.operandOutOfRange (0xE#4 ++ x ++ 0x9E#8)) } ∧
      exec (.sknp x) s = .next { s with run := .halted (.operandOutOfRange (0xE#4 ++ x ++ 0xA1#8)) })

/-- R192, R79, R256: LD Vx, K starts the wait and changes nothing else, `pc` included; then cycles do nothing, while timer
ticks and key updates go on without ending the wait. -/
def Obligations.KeyWaitSuspendsTheCore : Prop :=
  ∀ (s : State) (x : Reg), decode (0xF#4 ++ x ++ 0x0A#8) = .instr (.ldK x) ∧
    ∃ t, exec (.ldK x) s = .next t ∧ t = { s with run := .awaitingKey x } ∧ cycle t = .next t ∧
      (tickTimers t).run = .awaitingKey x ∧ (∀ k p, (t.setKey k p).run = .awaitingKey x)

/-- R193: `resolve_wait` of a key index writes the awaiting register, moves `pc` past the FX0A and resumes; in any other
run state it has no effect; a value above 15 has no move. (The last two are the spec's own decision D13; log entry 11.) -/
def Obligations.ResolvingAKeyWaitResumes : Prop :=
  ∀ (s : State) (value : Nat),
    (value ≤ 15 → ∀ x, s.run = .awaitingKey x →
      ∃ t, transact (.resolveWait value) s = .next t ∧ (t.getV x).toNat = value ∧ KeepsRegsBut x s t ∧
        t.pc = s.pc + 2#16 ∧ t.run = .running ∧ t.index = s.index ∧ t.stack = s.stack ∧ t.mem = s.mem ∧ t.fb = s.fb ∧
        KeepsTimersKeys s t ∧ KeepsHost s t) ∧
    (value ≤ 15 → (∀ x, s.run ≠ .awaitingKey x) → transact (.resolveWait value) s = .next s) ∧
    (15 < value → transact (.resolveWait value) s = .fault (.resolveWaitOutOfRange value))

/-! ## Timers -/

/-- R210, R211, R212: the timer instructions move a byte between `V[x]` and a timer, advance, and change nothing else;
`sound_active` follows ST at once (R28). (Included by the spec's own decision D2; log entry 7.) -/
def Obligations.TimerInstructionsMoveOneByte : Prop :=
  ∀ (s : State) (x : Reg),
    decode (0xF#4 ++ x ++ 0x07#8) = .instr (.ldDT x) ∧ decode (0xF#4 ++ x ++ 0x15#8) = .instr (.setDT x) ∧
    decode (0xF#4 ++ x ++ 0x18#8) = .instr (.setST x) ∧
    (∃ t, exec (.ldDT x) s = .next t ∧ t.getV x = s.dt ∧ KeepsRegsBut x s t ∧ t.pc = s.pc + 2#16 ∧
      KeepsBesidesRegs s t) ∧
    exec (.setDT x) s = .next { s with dt := s.getV x, pc := s.pc + 2#16 } ∧
    (∃ t, exec (.setST x) s = .next t ∧ t = { s with st := s.getV x, pc := s.pc + 2#16 } ∧
      (t.soundActive = true ↔ s.getV x ≠ 0#8))

/-- R255: a tick takes 1 off each timer that is above 0, leaves one at 0 there, and changes no other state. -/
def Obligations.TickDecrementsTimersToZero : Prop :=
  ∀ (s : State), ∃ t, transact .tickTimers s = .next t ∧
    (0 < s.dt.toNat → t.dt.toNat + 1 = s.dt.toNat) ∧ (s.dt.toNat = 0 → t.dt.toNat = 0) ∧
    (0 < s.st.toNat → t.st.toNat + 1 = s.st.toNat) ∧ (s.st.toNat = 0 → t.st.toNat = 0) ∧
    (t.soundActive = true ↔ t.st.toNat ≠ 0) ∧ t = { s with dt := t.dt, st := t.st }

/-- R255, R256, R210: after `k` ticks each timer has fallen by `k`, down to 0, and nothing else has changed. -/
def Obligations.RepeatedTicksSaturateAtZero : Prop :=
  ∀ (s : State) (k : Nat),
    (tickTimers^[k] s).dt.toNat = s.dt.toNat - k ∧ (tickTimers^[k] s).st.toNat = s.st.toNat - k ∧
    tickTimers^[k] s = { s with dt := (tickTimers^[k] s).dt, st := (tickTimers^[k] s).st }

/-! ## Index register and memory -/

/-- R220, R221: LD I sets I to the zero-extended address; ADD I adds `V[x]` modulo 2^16 and sets no flag; both advance and
change nothing else. (The wrap and the missing flag are the spec's own decision D14; log entry 7.) -/
def Obligations.IndexIsSetOrAddedTo : Prop :=
  ∀ (s : State) (x : Reg) (nnn : Addr12),
    decode (0xA#4 ++ nnn) = .instr (.ldI nnn) ∧ decode (0xF#4 ++ x ++ 0x1E#8) = .instr (.addI x) ∧
    (∃ t, exec (.ldI nnn) s = .next t ∧ t.index.toNat = nnn.toNat ∧ t.pc = s.pc + 2#16 ∧ KeepsBesidesIndex s t) ∧
    (∃ t, exec (.addI x) s = .next t ∧ t.index.toNat = (s.index.toNat + (s.getV x).toNat) % 0x10000 ∧
      t.pc = s.pc + 2#16 ∧ KeepsBesidesIndex s t)

/-- R222: LD B stores the hundreds, tens and ones at I, I+1, I+2 and leaves every other byte, I and the rest alone, where
the three addresses may be written. (The digit order is the spec's own decision D16; log entry 7.) -/
def Obligations.DecimalDigitsAreStoredAtI : Prop :=
  ∀ (s : State) (x : Reg), decode (0xF#4 ++ x ++ 0x33#8) = .instr (.ldB x) ∧
    (Memory.wf s.mem → 0x200 ≤ s.base → s.base + 3 ≤ 0x1000 →
      ∃ t, exec (.ldB x) s = .next t ∧
        (readByte t.mem s.base).toNat = (s.getV x).toNat / 100 ∧
        (readByte t.mem (s.base + 1)).toNat = (s.getV x).toNat / 10 % 10 ∧
        (readByte t.mem (s.base + 2)).toNat = (s.getV x).toNat % 10 ∧
        KeepsMemoryOutside s.base 3 s t ∧ t.pc = s.pc + 2#16 ∧ KeepsBesidesMemory s t)

/-- R223: LD [I], Vx stores V0 to Vx at I to I+x and leaves every other byte, I and the rest alone, where the addresses
may be written. (I unchanged is the spec's own decision D15; log entry 7.) -/
def Obligations.RegisterRangeIsStoredAtI : Prop :=
  ∀ (s : State) (x : Reg), decode (0xF#4 ++ x ++ 0x55#8) = .instr (.stRange x) ∧
    (Memory.wf s.mem → 0x200 ≤ s.base → s.base + x.toNat + 1 ≤ 0x1000 →
      ∃ t, exec (.stRange x) s = .next t ∧
        (∀ k : Reg, k.toNat ≤ x.toNat → readByte t.mem (s.base + k.toNat) = s.getV k) ∧
        KeepsMemoryOutside s.base (x.toNat + 1) s t ∧ t.pc = s.pc + 2#16 ∧ KeepsBesidesMemory s t)

/-- R224: LD Vx, [I] loads V0 to Vx from I to I+x, leaves the other registers, I, memory and the rest alone, where the
addresses exist; else it halts with the first that does not, and no register is written. (D15 and D6 are the spec's own
decisions; log entries 7 and 9.) -/
def Obligations.RegisterRangeIsLoadedFromI : Prop :=
  ∀ (s : State) (x : Reg), decode (0xF#4 ++ x ++ 0x65#8) = .instr (.ldRange x) ∧
    (s.base + x.toNat + 1 ≤ 0x1000 →
      ∃ t, exec (.ldRange x) s = .next t ∧
        (∀ k : Reg, k.toNat ≤ x.toNat → t.getV k = readByte s.mem (s.base + k.toNat)) ∧
        (∀ r : Reg, x.toNat < r.toNat → t.getV r = s.getV r) ∧ t.pc = s.pc + 2#16 ∧ KeepsBesidesRegs s t) ∧
    (0x1000 < s.base + x.toNat + 1 →
      exec (.ldRange x) s = .next { s with run := .halted (.memoryOutOfRange (max s.base 0x1000)) })

/-- R58, R59, R222, R223, R246: a store that begins below 0x200 halts with ProtectedWrite of its first address, and one
that ends outside the address space with MemoryOutOfRange of the first that does not exist; no byte is written and nothing
else changes. (D6, D7 and D8 are the spec's own decisions; log entry 9.) -/
def Obligations.ForbiddenStoresHaltAndWriteNothing : Prop :=
  ∀ (s : State) (x : Reg),
    (s.base < 0x200 →
      exec (.ldB x) s = .next { s with run := .halted (.protectedWrite s.base) } ∧
      exec (.stRange x) s = .next { s with run := .halted (.protectedWrite s.base) }) ∧
    (0x200 ≤ s.base → 0x1000 < s.base + 3 →
      exec (.ldB x) s = .next { s with run := .halted (.memoryOutOfRange (max s.base 0x1000)) }) ∧
    (0x200 ≤ s.base → 0x1000 < s.base + x.toNat + 1 →
      exec (.stRange x) s = .next { s with run := .halted (.memoryOutOfRange (max s.base 0x1000)) })

/-- R65, R296: two neighbouring bytes that FX55 has stored are the word a fetch at their address reads at once. (The
spec's own decision D26.) -/
def Obligations.StoredBytesAreFetchedAtOnce : Prop :=
  ∀ (s t : State) (x k j : Reg), Memory.wf s.mem → s.run = .running → exec (.stRange x) s = .next t → t.run = .running →
    j.toNat = k.toNat + 1 → j.toNat ≤ x.toNat → fetch16 t.mem (s.base + k.toNat) = s.getV k ++ s.getV j

/-! ## Reset, load and the host's other transactions -/

/-- R290, R291: what the source says reset leaves, in `State.reset` and after `reset()` in any state: registers and I 0,
`pc` 0x200, the stack empty, the screen clear, the core running, the 4096 bytes zero but for the fontset. (The font's bytes are the
spec's own decision D17; log entry 5.) -/
def Obligations.ResetReplacesTheMachineState : Prop :=
  ∀ (s : State), ∃ t, transact .reset s = .next t ∧ ∀ u, u = t ∨ u = State.reset →
    (∀ r, u.getV r = 0#8) ∧ u.index = 0#16 ∧ u.pc = 0x200#16 ∧ u.stack = [] ∧
    (∀ px py, pixel u.fb px py = false) ∧ u.run = .running ∧
    (∀ a, 0x050 ≤ a → a ≤ 0x09F → readByte u.mem a = fontset.getD (a - 0x050) 0#8) ∧
    (∀ a, a < 0x050 ∨ (0x09F < a ∧ a < 0x1000) → readByte u.mem a = 0#8)

/-- What reset leaves in the timers and the keys. (The spec's own decision D19, "DT = ST = 0; all keys released"; log
entry 6.) -/
def Obligations.ResetClearsTimersAndKeys : Prop :=
  ∀ (s : State), ∃ t, transact .reset s = .next t ∧ ∀ u, u = t ∨ u = State.reset →
    u.dt = 0#8 ∧ u.st = 0#8 ∧ u.soundActive = false ∧ (∀ k, u.key k = false)

/-- R292, R293, R241: a ROM of at most 0xE00 bytes replaces the machine by the reset state with the bytes from 0x200 on,
and the host gets Ok; a longer one changes nothing, and the host gets RomTooLarge. (The order is the spec's own decision
D24; that the schedule and the draw counter stay is the model's, log entry 3.) -/
def Obligations.LoadRomResetsThenCopies : Prop :=
  ∀ (s : State) (bytes : List Byte),
    (bytes.length ≤ 0xE00 →
      ∃ t, transact (.loadRom bytes) s = .next t ∧ replyTo (.loadRom bytes) s = .ok ∧
        t = { State.reset with mem := t.mem, draws := s.draws, calls := s.calls } ∧
        (∀ a, 0x200 ≤ a → a < 0x200 + bytes.length → readByte t.mem a = bytes.getD (a - 0x200) 0#8) ∧
        (∀ a, a < 0x200 ∨ 0x200 + bytes.length ≤ a → readByte t.mem a = readByte State.reset.mem a)) ∧
    (0xE00 < bytes.length → transact (.loadRom bytes) s = .next s ∧ replyTo (.loadRom bytes) s = .romTooLarge)

/-- R261: `set_key` of an index of at most 15 sets that key and changes nothing else, in any run state, so it resolves no
wait; a larger index has no move. (The duty is the spec's own decision D29; log entry 11.) -/
def Obligations.SetKeySetsOneKey : Prop :=
  ∀ (s : State) (k : Reg) (index : Nat) (p : Bool),
    (index = k.toNat →
      ∃ t, transact (.setKey index p) s = .next t ∧ t.key k = p ∧ (∀ j, j ≠ k → t.key j = s.key j) ∧
        t = { s with keys := t.keys }) ∧
    (15 < index → transact (.setKey index p) s = .fault (.setKeyOutOfRange index))

/-- R36, R28, R273: the host's views change nothing and show the pixel grid; V0 to VF, `pc`, the stack and I; and
`sound_active`, which is ST ≠ 0 (D20). -/
def Obligations.ViewsReadWithoutChange : Prop :=
  ∀ (s : State),
    transact .readPixels s = .next s ∧ replyTo .readPixels s = .pixels s.fb ∧
    transact .readDebug s = .next s ∧ replyTo .readDebug s = .debug s.v s.pc s.stack s.index ∧
    transact .readSound s = .next s ∧ replyTo .readSound s = .sound (decide (s.st.toNat ≠ 0))

/-! ## The whole machine -/

/-- R290: the state after reset meets the invariant. -/
def Obligations.ResetMeetsTheInvariant : Prop := State.reset.Inv

/-- R24, R25, R37, R53, R59, R100: every step of the machine, whatever transaction the host makes, keeps the invariant:
memory canonical and unwritten below 0x200, at most 16 return addresses, each even and at most 0x1000, `pc` at most
0x10FE, and a key-wait at an address that can be fetched. -/
def Obligations.EveryStepKeepsTheInvariant : Prop :=
  ∀ (s t : State), s.Inv → step s = .next t → t.Inv

/-- R32: the run state changes only as R32 lists: an FX0A starts a wait for its register, a fatal error halts, a
`resolve_wait` ends a wait, a reset or a load that succeeds makes the core run. -/
def Obligations.RunStateChangesOnlyAsListed : Prop :=
  ∀ (s t : State) (c : HostCall), transact c s = .next t →
    t.run = s.run ∨
    (c = .cycle ∧ s.run = .running ∧
      ((∃ x, decode (fetch16 s.mem s.pc.toNat) = .instr (.ldK x) ∧ t.run = .awaitingKey x) ∨ ∃ e, t.run = .halted e)) ∨
    (∃ value x, c = .resolveWait value ∧ s.run = .awaitingKey x ∧ t.run = .running) ∨
    ((c = .reset ∨ ∃ bytes, c = .loadRom bytes ∧ bytes.length ≤ 0xE00) ∧ t.run = .running)

/-- R53, R59: no cycle changes a byte below 0x200, so the glyphs stay as reset wrote them. -/
def Obligations.NoCycleWritesBelow0x200 : Prop :=
  ∀ (s t : State), Memory.wf s.mem → cycle s = .next t → ∀ a, a < 0x200 → readByte t.mem a = readByte s.mem a

/-- R21: VF is written only by the six flag writers and by instructions that name it as their destination. -/
def Obligations.VFIsWrittenOnlyByItsWriters : Prop :=
  ∀ (i : Instr) (s t : State), writesFlag i = false → ¬namesDest i VF → exec i s = .next t → t.getV VF = s.getV VF

/-- R22, R25, R27, R29, R30, R57: each piece of state outside the general registers is written only by the instructions
the spec names for it, and the keys by none. -/
def Obligations.EachPieceOfStateHasItsWriters : Prop :=
  ∀ (i : Instr) (s t : State), exec i s = .next t →
    (i ≠ .ret → (∀ nnn, i ≠ .call nnn) → t.stack = s.stack) ∧
    (i ≠ .cls → (∀ x y n, i ≠ .drw x y n) → t.fb = s.fb) ∧
    ((∀ nnn, i ≠ .ldI nnn) → (∀ x, i ≠ .addI x) → (∀ x, i ≠ .ldF x) → t.index = s.index) ∧
    ((∀ x, i ≠ .setDT x) → t.dt = s.dt) ∧ ((∀ x, i ≠ .setST x) → t.st = s.st) ∧
    ((∀ x, i ≠ .ldB x) → (∀ x, i ≠ .stRange x) → t.mem = s.mem) ∧ t.keys = s.keys

/-- R57: an instruction other than DRW, FX33, FX55 and FX65 does not depend on memory: over any other memory it does the
same and leaves that memory as it is. -/
def Obligations.OtherInstructionsDoNotTouchMemory : Prop :=
  ∀ (i : Instr) (s t : State) (m : Memory), touchesMemory i = false → exec i s = .next t →
    exec i (s.setMem m) = .next (t.setMem m)

/-- R35, R271: an instruction neither sees nor changes the host's remaining schedule. (The schedule is the model's own
field, log entry 1.) -/
def Obligations.InstructionsDoNotSeeTheSchedule : Prop :=
  ∀ (i : Instr) (s t : State) (l : List HostCall), exec i s = .next t → exec i (s.setCalls l) = .next (t.setCalls l)

/-- R101, R275: at a jump to itself the machine stays as it is, for every cycle to come. (The end-of-run convention is the
spec's own decision D36. That an empty schedule makes every step a `cycle()` is the model's choice, log entry 1.) -/
def Obligations.SelfJumpIsAFixedPoint : Prop :=
  ∀ (s : State) (k : Nat), s.run = .running → s.calls = [] → s.atSelfJump → Sys2Proof.core.run k s = .next s
end

