-- ==== Sys2Proof/Laws/Decode.lean ====
section
/-! SUPPORT. The fields of an encoded word, and the word made of its fields: what decoding an encoding and encoding a
decoding rest on (R71). -/

namespace Sys2Proof

/-! ## The fields of each format -/

theorem opField_formatNNN (op : Nibble) (nnn : Addr12) : opField (formatNNN op nnn) = op := by
  refine BitVec.eq_of_getLsbD_eq fun i hi => ?_
  unfold opField formatNNN
  interval_cases i <;> simp only [BitVec.getLsbD_append, BitVec.getLsbD_extractLsb'] <;> simp

theorem nnnField_formatNNN (op : Nibble) (nnn : Addr12) : nnnField (formatNNN op nnn) = nnn := by
  refine BitVec.eq_of_getLsbD_eq fun i hi => ?_
  unfold nnnField formatNNN
  interval_cases i <;> simp only [BitVec.getLsbD_append, BitVec.getLsbD_extractLsb'] <;> simp

theorem opField_formatXNN (op : Nibble) (x : Reg) (nn : Byte) : opField (formatXNN op x nn) = op := by
  refine BitVec.eq_of_getLsbD_eq fun i hi => ?_
  unfold opField formatXNN
  interval_cases i <;> simp only [BitVec.getLsbD_append, BitVec.getLsbD_extractLsb'] <;> simp

theorem xField_formatXNN (op : Nibble) (x : Reg) (nn : Byte) : xField (formatXNN op x nn) = x := by
  refine BitVec.eq_of_getLsbD_eq fun i hi => ?_
  unfold xField formatXNN
  interval_cases i <;> simp only [BitVec.getLsbD_append, BitVec.getLsbD_extractLsb'] <;> simp

theorem nnField_formatXNN (op : Nibble) (x : Reg) (nn : Byte) : nnField (formatXNN op x nn) = nn := by
  refine BitVec.eq_of_getLsbD_eq fun i hi => ?_
  unfold nnField formatXNN
  interval_cases i <;> simp only [BitVec.getLsbD_append, BitVec.getLsbD_extractLsb'] <;> simp

theorem opField_formatXYN (op : Nibble) (x y : Reg) (n : Nibble) : opField (formatXYN op x y n) = op := by
  refine BitVec.eq_of_getLsbD_eq fun i hi => ?_
  unfold opField formatXYN
  interval_cases i <;> simp only [BitVec.getLsbD_append, BitVec.getLsbD_extractLsb'] <;> simp

theorem xField_formatXYN (op : Nibble) (x y : Reg) (n : Nibble) : xField (formatXYN op x y n) = x := by
  refine BitVec.eq_of_getLsbD_eq fun i hi => ?_
  unfold xField formatXYN
  interval_cases i <;> simp only [BitVec.getLsbD_append, BitVec.getLsbD_extractLsb'] <;> simp

theorem yField_formatXYN (op : Nibble) (x y : Reg) (n : Nibble) : yField (formatXYN op x y n) = y := by
  refine BitVec.eq_of_getLsbD_eq fun i hi => ?_
  unfold yField formatXYN
  interval_cases i <;> simp only [BitVec.getLsbD_append, BitVec.getLsbD_extractLsb'] <;> simp

theorem nField_formatXYN (op : Nibble) (x y : Reg) (n : Nibble) : nField (formatXYN op x y n) = n := by
  refine BitVec.eq_of_getLsbD_eq fun i hi => ?_
  unfold nField formatXYN
  interval_cases i <;> simp only [BitVec.getLsbD_append, BitVec.getLsbD_extractLsb'] <;> simp

/-! ## A word is made of its fields -/

theorem formatNNN_fields (w : Word) : formatNNN (opField w) (nnnField w) = w := by
  refine BitVec.eq_of_getLsbD_eq fun i hi => ?_
  unfold opField nnnField formatNNN
  interval_cases i <;> simp only [BitVec.getLsbD_append, BitVec.getLsbD_extractLsb'] <;> simp

theorem formatXNN_fields (w : Word) : formatXNN (opField w) (xField w) (nnField w) = w := by
  refine BitVec.eq_of_getLsbD_eq fun i hi => ?_
  unfold opField xField nnField formatXNN
  interval_cases i <;> simp only [BitVec.getLsbD_append, BitVec.getLsbD_extractLsb'] <;> simp

theorem formatXYN_fields (w : Word) : formatXYN (opField w) (xField w) (yField w) (nField w) = w := by
  refine BitVec.eq_of_getLsbD_eq fun i hi => ?_
  unfold opField xField yField nField formatXYN
  interval_cases i <;> simp only [BitVec.getLsbD_append, BitVec.getLsbD_extractLsb'] <;> simp

/-! ## The masks of the opcode map (R73) -/

theorem formatNNN_mask (op : Nibble) (nnn : Addr12) : formatNNN op nnn &&& 0xF000#16 = formatNNN op 0#12 := by
  refine BitVec.eq_of_getLsbD_eq fun i hi => ?_
  unfold formatNNN
  interval_cases i <;> simp only [BitVec.getLsbD_and, BitVec.getLsbD_append] <;> simp

theorem formatXNN_mask (op : Nibble) (x : Reg) (nn : Byte) : formatXNN op x nn &&& 0xF000#16 = formatXNN op 0#4 0#8 := by
  refine BitVec.eq_of_getLsbD_eq fun i hi => ?_
  unfold formatXNN
  interval_cases i <;> simp only [BitVec.getLsbD_and, BitVec.getLsbD_append] <;> simp

theorem formatXNN_maskX (op : Nibble) (x : Reg) (nn : Byte) : formatXNN op x nn &&& 0xF0FF#16 = formatXNN op 0#4 nn := by
  refine BitVec.eq_of_getLsbD_eq fun i hi => ?_
  unfold formatXNN
  interval_cases i <;> simp only [BitVec.getLsbD_and, BitVec.getLsbD_append] <;> simp

theorem formatXYN_mask (op : Nibble) (x y : Reg) (n : Nibble) :
    formatXYN op x y n &&& 0xF000#16 = formatXYN op 0#4 0#4 0#4 := by
  refine BitVec.eq_of_getLsbD_eq fun i hi => ?_
  unfold formatXYN
  interval_cases i <;> simp only [BitVec.getLsbD_and, BitVec.getLsbD_append] <;> simp

theorem formatXYN_maskXY (op : Nibble) (x y : Reg) (n : Nibble) :
    formatXYN op x y n &&& 0xF00F#16 = formatXYN op 0#4 0#4 n := by
  refine BitVec.eq_of_getLsbD_eq fun i hi => ?_
  unfold formatXYN
  interval_cases i <;> simp only [BitVec.getLsbD_and, BitVec.getLsbD_append] <;> simp

/-- R75: a word that matches a row of the map is legal. -/
theorem legalWord_of_row (w : Word) (r : OpcodeRow) (h : r ∈ opcodeMap) (hw : w &&& r.mask = r.value) :
    legalWord w = true :=
  List.any_eq_true.2 ⟨r, h, by simp [OpcodeRow.holds, hw]⟩

/-- R55: a word is read back from its bytes. -/
theorem wordOfBytes_bytes (w : Word) : wordOfBytes (w.extractLsb' 8 8) (w.extractLsb' 0 8) = w := by
  refine BitVec.eq_of_getLsbD_eq fun i hi => ?_
  unfold wordOfBytes
  interval_cases i <;> simp only [BitVec.getLsbD_append, BitVec.getLsbD_extractLsb'] <;> simp

end Sys2Proof
end

