-- ==== Sys2Proof/Laws/Draw.lean ====
section
/-! SUPPORT. What drawing does to the screen, pixel by pixel (R171, R172): the loop over rows and columns XORs exactly the
pixels the sprite covers, and reports a collision exactly if one of those was set. -/

namespace Sys2Proof.Machine

/-- R29: setting a pixel sets that one and no other. -/
@[simp] theorem pixel_setPixel (f : FrameBuffer) (x x' : Fin 64) (y y' : Fin 32) (p : Bool) :
    pixel (setPixel f x y p) x' y' = if x' = x ∧ y' = y then p else pixel f x' y' := by
  unfold pixel setPixel
  by_cases hy : y' = y
  · subst hy
    simp [Vector.getElem_set, Fin.ext_iff, eq_comm]
  · rw [if_neg (fun h => hy h.2)]
    have hne : ¬ y.val = y'.val := fun h => hy (Fin.ext h.symm)
    simp [hne]

/-- R170: a cleared screen has no set pixel. -/
@[simp] theorem pixel_clearScreen (x : Fin 64) (y : Fin 32) : pixel clearScreen x y = false := by
  simp [pixel, clearScreen]

/-- R29: screens with the same pixels are the same. -/
theorem FrameBuffer.ext_pixel (f g : FrameBuffer) (h : ∀ x y, pixel f x y = pixel g x y) : f = g :=
  Vector.ext fun y hy => Vector.ext fun x hx => h ⟨x, hx⟩ ⟨y, hy⟩

/-- A set of pixels drawn on a canvas: they are flipped, and a collision is noted if one of them was set. -/
def Drawn (k k' : Canvas) (cover : Fin 64 → Fin 32 → Bool) : Prop :=
  (∀ x y, pixel k'.1 x y = (pixel k.1 x y ^^ cover x y)) ∧
    (k'.2 = true ↔ k.2 = true ∨ ∃ x y, cover x y = true ∧ pixel k.1 x y = true)

/-- Nothing drawn. -/
theorem Drawn.refl (k : Canvas) : Drawn k k (fun _ _ => false) := by simp [Drawn]

/-- The cover of a drawing may be spelt in any way. -/
theorem Drawn.congr {k k' : Canvas} {c d : Fin 64 → Fin 32 → Bool} (h : Drawn k k' c) (hd : ∀ x y, c x y = d x y) :
    Drawn k k' d := by
  obtain rfl : c = d := funext fun x => funext fun y => hd x y
  exact h

/-- R171: two drawings that share no pixel draw both covers. -/
theorem Drawn.trans {k k' k'' : Canvas} {c d : Fin 64 → Fin 32 → Bool} (h : Drawn k k' c) (h' : Drawn k' k'' d)
    (hcd : ∀ x y, c x y = true → d x y = false) : Drawn k k'' (fun x y => c x y || d x y) := by
  refine ⟨fun x y => ?_, ?_⟩
  · rw [h'.1, h.1]
    have := hcd x y
    cases hc : c x y <;> cases hd : d x y <;> simp_all
  · rw [h'.2, h.2]
    constructor
    · rintro ((hk | ⟨x, y, hc, hp⟩) | ⟨x, y, hd, hp⟩)
      · exact .inl hk
      · exact .inr ⟨x, y, by simp [hc], hp⟩
      · refine .inr ⟨x, y, by simp [hd], ?_⟩
        rw [h.1] at hp
        have := hcd x y
        cases hc : c x y <;> simp_all
    · rintro (hk | ⟨x, y, hc, hp⟩)
      · exact .inl (.inl hk)
      · rcases Bool.or_eq_true_iff.1 hc with hc | hd
        · exact .inl (.inr ⟨x, y, hc, hp⟩)
        · refine .inr ⟨x, y, hd, ?_⟩
          rw [h.1, hp]
          have := hcd x y
          cases hc : c x y <;> simp_all

/-- R171: one pixel. -/
theorem drawn_flipPixel (k : Canvas) (x : Fin 64) (y : Fin 32) :
    Drawn k (flipPixel k x y) (fun x' y' => decide (x' = x ∧ y' = y)) := by
  refine ⟨fun x' y' => ?_, ?_⟩
  · simp only [flipPixel, pixel_setPixel]
    by_cases h : x' = x ∧ y' = y
    · obtain ⟨rfl, rfl⟩ := h
      simp
    · simp [h]
  · simp [flipPixel]

/-- The pixels of columns `c` to `c + m - 1` of a sprite row at column `x0` of screen row `y`. -/
def columnsCover (row : Byte) (x0 : Nat) (y : Fin 32) (c m : Nat) (x' : Fin 64) (y' : Fin 32) : Bool :=
  let j := (x'.val + 64 - x0 % 64) % 64
  decide (y' = y) && decide (c ≤ j) && decide (j < c + m) && row.getLsbD (7 - j)

/-- R171: a run of columns. -/
theorem drawn_drawColumns (row : Byte) (x0 : Nat) (y : Fin 32) (c m : Nat) (h : c + m ≤ 8) (k : Canvas) :
    Drawn k (drawColumns row x0 y c k m) (columnsCover row x0 y c m) := by
  induction m generalizing c k with
  | zero =>
    refine (Drawn.refl k).congr fun x' y' => ?_
    simp only [columnsCover]
    by_cases hc : c ≤ (x'.val + 64 - x0 % 64) % 64
    · simp
    · simp [hc]
  | succ m ih =>
    have first : Drawn k (if row.getLsbD (7 - c) then flipPixel k (Fin.ofNat 64 (x0 + c)) y else k)
        (fun x' y' => decide (x' = Fin.ofNat 64 (x0 + c) ∧ y' = y) && row.getLsbD (7 - c)) := by
      cases hb : row.getLsbD (7 - c)
      · simpa using Drawn.refl k
      · simpa using drawn_flipPixel k (Fin.ofNat 64 (x0 + c)) y
    have here : ∀ x' : Fin 64, x' = Fin.ofNat 64 (x0 + c) ↔ (x'.val + 64 - x0 % 64) % 64 = c := by
      intro x'
      rw [Fin.ext_iff, Fin.val_ofNat]
      omega
    rw [drawColumns]
    refine (first.trans (ih (c + 1) (by omega) _) fun x' y' hc => ?_).congr fun x' y' => ?_
    · simp only [Bool.and_eq_true, decide_eq_true_eq, here] at hc
      simp [columnsCover, hc.1.1]
    · simp only [columnsCover, here]
      by_cases hj : (x'.val + 64 - x0 % 64) % 64 = c
      · simp [hj]
      · by_cases hr : c ≤ (x'.val + 64 - x0 % 64) % 64 ∧ (x'.val + 64 - x0 % 64) % 64 < c + (m + 1)
        · simp [hj, hr.1, hr.2, show c + 1 ≤ (x'.val + 64 - x0 % 64) % 64 by omega,
            show (x'.val + 64 - x0 % 64) % 64 < c + 1 + m by omega]
        · by_cases hl : c ≤ (x'.val + 64 - x0 % 64) % 64
          · simp [hj, show ¬ (x'.val + 64 - x0 % 64) % 64 < c + (m + 1) by omega,
              show ¬ (x'.val + 64 - x0 % 64) % 64 < c + 1 + m by omega]
          · simp [hj, hl, show ¬ c + 1 ≤ (x'.val + 64 - x0 % 64) % 64 by omega]

/-- R171: a whole sprite of at most 32 rows draws exactly the pixels it covers. -/
theorem drawn_drawRows (x0 y0 : Nat) (rows : List Byte) (h : rows.length ≤ 32) (k : Canvas) :
    Drawn k (drawRows x0 y0 k rows) (spriteCovers (fun r => rows.getD r 0#8) rows.length x0 y0) := by
  induction rows generalizing y0 k with
  | nil =>
    refine (Drawn.refl k).congr fun x' y' => ?_
    simp [spriteCovers]
  | cons row rows ih =>
    rw [List.length_cons] at h
    rw [drawRows]
    have rowHere : ∀ y' : Fin 32, y' = Fin.ofNat 32 y0 ↔ (y'.val + 32 - y0 % 32) % 32 = 0 := by
      intro y'
      rw [Fin.ext_iff, Fin.val_ofNat]
      omega
    refine ((drawn_drawColumns row x0 (Fin.ofNat 32 y0) 0 8 (by omega) k).trans (ih (y0 + 1) (by omega) _)
      fun x' y' hc => ?_).congr fun x' y' => ?_
    · simp only [columnsCover, Bool.and_eq_true, decide_eq_true_eq, rowHere] at hc
      have : ¬ (y'.val + 32 - (y0 + 1) % 32) % 32 < rows.length := by omega
      simp [spriteCovers, this]
    · simp only [columnsCover, spriteCovers, List.length_cons, rowHere]
      by_cases h0 : (y'.val + 32 - y0 % 32) % 32 = 0
      · have h1 : ¬ (y'.val + 32 - (y0 + 1) % 32) % 32 < rows.length := by omega
        simp [h0, h1]
      · have h1 : (y'.val + 32 - y0 % 32) % 32 = (y'.val + 32 - (y0 + 1) % 32) % 32 + 1 := by omega
        simp [h1]

/-- R171: `drawSprite` on a screen: every covered pixel is flipped, every other is kept, and the collision is true exactly
if a covered pixel was set. -/
theorem drawn_drawSprite (rows : List Byte) (h : rows.length ≤ 32) (vx vy : Byte) (f : FrameBuffer) :
    Drawn (f, false) (drawSprite rows vx vy f)
      (spriteCovers (fun r => rows.getD r 0#8) rows.length (vx.toNat % 64) (vy.toNat % 32)) :=
  drawn_drawRows _ _ rows h _

end Sys2Proof.Machine
end

