-- ==== Sys2Proof/Laws/Memory.lean ====
section
/-! SUPPORT. The laws of memory: a read after a write, that every operation keeps the canonical form, that canonical
memories with equal bytes are equal, and exactly when the range and protection checks raise. -/

namespace Sys2Proof.Machine

/-! ## Reset contents (R52, R53) -/

/-- R53: the fontset is 16 glyphs of 5 bytes. -/
theorem fontset_length : fontset.length = 80 := rfl

/-- R53, R54: the fontset's bytes. -/
theorem resetByte_of_font (a : Nat) (h : fontBase ≤ a) : resetByte a = fontset.getD (a - fontBase) 0#8 := if_pos h

/-- R52: every byte outside the fontset is zero after reset. -/
theorem resetByte_of_outside (a : Nat) (h : a < 0x050 ∨ 0x09F < a) : resetByte a = 0#8 := by
  by_cases hf : fontBase ≤ a
  · rw [resetByte_of_font a hf, List.getD_eq_default _ _ (by rw [fontset_length]; simp only [fontBase] at hf ⊢; omega)]
  · exact if_neg hf

/-! ## Reading after writing (R61, R63) -/

/-- A cell in front is read at its address; in front of a memory that holds nothing there it is the whole truth. -/
theorem readByte_consCell (m : Memory) (a c : Nat) (b : Byte) (h : readByte m a = resetByte a) :
    readByte (consCell a b m) c = if c = a then b else readByte m c := by
  unfold consCell
  by_cases hb : b = resetByte a
  · rw [if_pos hb]
    by_cases hc : c = a
    · rw [if_pos hc, hc, h, hb]
    · rw [if_neg hc]
  · rw [if_neg hb]
    simp [readByte, eq_comm]

/-- Below every listed address a memory reads as at reset. -/
theorem readByte_of_lt (m : Memory) (a : Nat) (h : ∀ c ∈ m, a < c.1) : readByte m a = resetByte a := by
  induction m with
  | nil => rfl
  | cons c m ih =>
    have := h c (by simp)
    rw [readByte, if_neg (by omega), ih (fun d hd => h d (by simp [hd]))]

/-- R61: after a write the byte is read there, and every other byte is as before. -/
theorem readByte_writeByte (m : Memory) (hm : m.Pairwise (fun c d => c.1 < d.1)) (a c : Nat) (b : Byte) :
    readByte (writeByte m a b) c = if c = a then b else readByte m c := by
  induction m with
  | nil => exact readByte_consCell [] a c b rfl
  | cons d m ih =>
    rw [List.pairwise_cons] at hm
    rw [writeByte]
    split
    · rename_i h
      exact readByte_consCell _ a c b (readByte_of_lt _ a (by
        intro e he
        rcases List.mem_cons.1 he with rfl | he
        · exact h
        · have := hm.1 e he; omega))
    · split
      · rename_i h
        rw [readByte_consCell m a c b (readByte_of_lt m a (by intro e he; have := hm.1 e he; omega))]
        by_cases hc : c = a
        · rw [if_pos hc, if_pos hc]
        · rw [if_neg hc, if_neg hc, readByte, if_neg (by omega)]
      · rw [readByte, readByte, ih hm.2]
        by_cases hd : d.1 = c
        · rw [if_pos hd, if_pos hd, if_neg (by omega)]
        · rw [if_neg hd, if_neg hd]

/-! ## The canonical form -/

/-- A written memory lists what was listed before and, at most, the address written. -/
theorem mem_writeByte (m : Memory) (a : Nat) (b : Byte) (c : Host.Cell) (h : c ∈ writeByte m a b) :
    c ∈ m ∨ (c = (a, b) ∧ b ≠ resetByte a) := by
  induction m with
  | nil =>
    rw [writeByte, consCell] at h
    split at h <;> simp_all
  | cons d m ih =>
    rw [writeByte, consCell, consCell] at h
    split at h
    · split at h <;> simp_all
      rcases h with h | h | h <;> simp_all
    · split at h
      · split at h <;> simp_all
        rcases h with h | h <;> simp_all
      · rcases List.mem_cons.1 h with h | h
        · exact .inl (by simp [h])
        · rcases ih h with h | h
          · exact .inl (by simp [h])
          · exact .inr h

/-- A write keeps the addresses rising. -/
theorem sorted_writeByte (m : Memory) (hm : m.Pairwise (fun c d => c.1 < d.1)) (a : Nat) (b : Byte) :
    (writeByte m a b).Pairwise (fun c d => c.1 < d.1) := by
  induction m with
  | nil =>
    rw [writeByte, consCell]
    split <;> simp
  | cons d m ih =>
    have hm' := List.pairwise_cons.1 hm
    rw [writeByte, consCell, consCell]
    split
    · rename_i h
      split
      · exact hm
      · refine List.pairwise_cons.2 ⟨fun e he => ?_, hm⟩
        rcases List.mem_cons.1 he with rfl | he
        · exact h
        · have := hm'.1 e he
          simp only
          omega
    · split
      · rename_i h
        split
        · exact hm'.2
        · exact List.pairwise_cons.2 ⟨fun e he => by have := hm'.1 e he; simp only; omega, hm'.2⟩
      · refine List.pairwise_cons.2 ⟨fun e he => ?_, ih hm'.2⟩
        rcases mem_writeByte m a b e he with he | ⟨rfl, -⟩
        · exact hm'.1 e he
        · simp only
          omega

/-- Writing a byte that exists keeps the canonical form. -/
theorem wf_writeByte (m : Memory) (hm : Memory.wf m) (a : Nat) (b : Byte) (ha : a < memSize) :
    Memory.wf (writeByte m a b) := by
  refine ⟨sorted_writeByte m hm.1 a b, fun c hc => ?_⟩
  rcases mem_writeByte m a b c hc with hc | ⟨rfl, hb⟩
  · exact hm.2 c hc
  · exact ⟨ha, hb⟩

/-- R63: after writing bytes in ascending order each is read at its address, and every byte outside is as before. -/
theorem readByte_writeBytes (m : Memory) (hm : m.Pairwise (fun c d => c.1 < d.1)) (a : Nat) (bs : List Byte) (c : Nat) :
    readByte (writeBytes m a bs) c = if a ≤ c ∧ c < a + bs.length then bs.getD (c - a) 0#8 else readByte m c := by
  induction bs generalizing m a with
  | nil => simp [writeBytes]
  | cons b bs ih =>
    rw [writeBytes, ih _ (sorted_writeByte m hm a b), readByte_writeByte m hm, List.length_cons]
    by_cases h1 : a + 1 ≤ c ∧ c < a + 1 + bs.length
    · rw [if_pos h1, if_pos (by omega), show c - a = (c - (a + 1)) + 1 by omega, List.getD_cons_succ]
    · rw [if_neg h1]
      by_cases h2 : c = a
      · rw [if_pos h2, if_pos (by omega), h2, Nat.sub_self, List.getD_cons_zero]
      · rw [if_neg h2, if_neg (by omega)]

/-- Writing bytes that all exist keeps the canonical form. -/
theorem wf_writeBytes (m : Memory) (hm : Memory.wf m) (a : Nat) (bs : List Byte) (h : a + bs.length ≤ memSize) :
    Memory.wf (writeBytes m a bs) := by
  induction bs generalizing m a with
  | nil => exact hm
  | cons b bs ih =>
    rw [List.length_cons] at h
    exact ih _ (wf_writeByte m hm a b (by omega)) (a + 1) (by omega)

/-- Writing bytes lists no address but those listed before and those written. -/
theorem mem_writeBytes (m : Memory) (a : Nat) (bs : List Byte) (c : Host.Cell) (h : c ∈ writeBytes m a bs) :
    c ∈ m ∨ a ≤ c.1 := by
  induction bs generalizing m a with
  | nil => exact .inl h
  | cons b bs ih =>
    rcases ih _ _ h with h | h
    · rcases mem_writeByte m a b c h with h | ⟨rfl, -⟩
      · exact .inl h
      · exact .inr (Nat.le_refl a)
    · exact .inr (by omega)

/-- A canonical memory differs from the reset contents at its first listed address. -/
theorem readByte_head_ne (c : Host.Cell) (m : Memory) (h : Memory.wf (c :: m)) : readByte (c :: m) c.1 ≠ resetByte c.1 := by
  rw [readByte, if_pos rfl]
  exact (h.2 c (by simp)).2

/-- Canonical memories that hold the same bytes are the same list. -/
theorem Memory.wf_ext (m k : Memory) (hm : Memory.wf m) (hk : Memory.wf k) (h : ∀ a, readByte m a = readByte k a) :
    m = k := by
  induction m generalizing k with
  | nil =>
    cases k with
    | nil => rfl
    | cons d k => exact absurd (h d.1).symm (readByte_head_ne d k hk)
  | cons c m ih =>
    cases k with
    | nil => exact absurd (h c.1) (readByte_head_ne c m hm)
    | cons d k =>
      have hm' := List.pairwise_cons.1 hm.1
      have hk' := List.pairwise_cons.1 hk.1
      have low : ∀ (e : Host.Cell) (l : Memory), (∀ x ∈ l, e.1 < x.1) → readByte l e.1 = resetByte e.1 :=
        fun e l he => readByte_of_lt l e.1 he
      have hcd : c.1 = d.1 := by
        by_contra hne
        rcases Nat.lt_or_gt_of_ne hne with hlt | hlt
        · refine readByte_head_ne c m hm ((h c.1).trans (readByte_of_lt _ _ fun x hx => ?_))
          rcases List.mem_cons.1 hx with rfl | hx
          · exact hlt
          · exact Nat.lt_trans hlt (hk'.1 x hx)
        · refine readByte_head_ne d k hk ((h d.1).symm.trans (readByte_of_lt _ _ fun x hx => ?_))
          rcases List.mem_cons.1 hx with rfl | hx
          · exact hlt
          · exact Nat.lt_trans hlt (hm'.1 x hx)
      have hcd2 : c = d := by
        have := h c.1
        rw [readByte, if_pos rfl, readByte, if_pos hcd.symm] at this
        exact Prod.ext hcd this
      subst hcd2
      refine congrArg (c :: ·) (ih k ⟨hm'.2, fun x hx => hm.2 x (by simp [hx])⟩ ⟨hk'.2, fun x hx => hk.2 x (by simp [hx])⟩
        fun a => ?_)
      by_cases ha : a = c.1
      · rw [ha, low c m hm'.1, low c k hk'.1]
      · have := h a
        rwa [readByte, if_neg (Ne.symm ha), readByte, if_neg (Ne.symm ha)] at this

/-! ## Reading a range -/

/-- `n` bytes are read. -/
@[simp] theorem readBytes_length (m : Memory) (a n : Nat) : (readBytes m a n).length = n := by
  induction n generalizing a with
  | zero => rfl
  | succ n ih => rw [readBytes, List.length_cons, ih]

/-- Byte `j` of a range read is the byte at `a + j`. -/
theorem readBytes_getD (m : Memory) (a n j : Nat) (h : j < n) : (readBytes m a n).getD j 0#8 = readByte m (a + j) := by
  induction n generalizing a j with
  | zero => omega
  | succ n ih =>
    cases j with
    | zero => rfl
    | succ j => rw [readBytes, List.getD_cons_succ, ih (a + 1) j (by omega)]; congr 1; omega

/-! ## The checks (R58, R59, R246) -/

/-- R58: a range can be read exactly if it is empty or ends inside the address space. -/
theorem checkRead_eq_none (a n : Nat) : checkRead a n = none ↔ n = 0 ∨ a + n ≤ memSize := by
  induction n generalizing a with
  | zero => simp [checkRead]
  | succ n ih =>
    rw [checkRead]
    split
    · simp; omega
    · rw [ih]; omega

/-- R58: else the first address that does not exist is reported. -/
theorem checkRead_eq_some (a n : Nat) (hn : n ≠ 0) (h : memSize < a + n) :
    checkRead a n = some (.memoryOutOfRange (max a memSize)) := by
  induction n generalizing a with
  | zero => exact absurd rfl hn
  | succ n ih =>
    rw [checkRead]
    split
    · rename_i ha; rw [Nat.max_eq_left ha]
    · rename_i ha
      rw [ih (a + 1) (by omega) (by omega), Nat.max_eq_right (by omega), Nat.max_eq_right (by omega)]

/-- R58, R59: a range can be written exactly if it is empty or lies from 0x200 up to the end of the address space. -/
theorem checkWrite_eq_none (a n : Nat) : checkWrite a n = none ↔ n = 0 ∨ (progBase ≤ a ∧ a + n ≤ memSize) := by
  induction n generalizing a with
  | zero => simp [checkWrite]
  | succ n ih =>
    rw [checkWrite]
    split
    · simp; omega
    · split
      · simp; omega
      · rw [ih]; omega

/-- R59, R246: a range that starts below 0x200 fails at its first address. -/
theorem checkWrite_protected (a n : Nat) (hn : n ≠ 0) (h : a < progBase) :
    checkWrite a n = some (.protectedWrite a) := by
  have : progBase ≤ memSize := by decide
  cases n with
  | zero => exact absurd rfl hn
  | succ n => rw [checkWrite, if_neg (by omega), if_pos h]

/-- R58, R246: one that starts at 0x200 or above and ends outside fails at the first address that does not exist. -/
theorem checkWrite_outOfRange (a n : Nat) (hn : n ≠ 0) (h : progBase ≤ a) (h' : memSize < a + n) :
    checkWrite a n = some (.memoryOutOfRange (max a memSize)) := by
  induction n generalizing a with
  | zero => exact absurd rfl hn
  | succ n ih =>
    rw [checkWrite]
    split
    · rename_i ha; rw [Nat.max_eq_left ha]
    · rename_i ha
      rw [if_neg (by omega), ih (a + 1) (by omega) (by omega) (by omega), Nat.max_eq_right (by omega),
        Nat.max_eq_right (by omega)]

/-- R60: a fetch is possible exactly at an even address of at most 0xFFE. -/
theorem fetchFault_eq_none (pc : Word) : fetchFault pc = none ↔ pc.toNat % 2 = 0 ∧ pc.toNat ≤ 0xFFE := by
  unfold fetchFault
  split <;> simp <;> omega

/-- R60, R78: elsewhere it raises PcOutOfRange with the address. -/
theorem fetchFault_eq_some (pc : Word) (h : ¬(pc.toNat % 2 = 0 ∧ pc.toNat ≤ 0xFFE)) :
    fetchFault pc = some (.pcOutOfRange pc) := by
  unfold fetchFault
  rw [if_pos (by omega)]

end Sys2Proof.Machine
end

