-- ==== Sys2Proof/Laws/PerInstr.lean ====
section
/-! SUPPORT. One lemma per instruction: it is well-formed, its word being one of the 34 forms (R73, R75, R77). -/

namespace Sys2Proof.Laws

/-- R73, R77: the instruction's word matches a row of the opcode map. -/
def LegalWord.Statement (i : Instr) : Prop := i.wellFormed = true

theorem LegalWord.cls : LegalWord.Statement .cls :=
  legalWord_of_row _ ⟨"CLS", 0x00E0#16, 0xFFFF#16⟩ (by decide) (rfl)

theorem LegalWord.ret : LegalWord.Statement .ret :=
  legalWord_of_row _ ⟨"RET", 0x00EE#16, 0xFFFF#16⟩ (by decide) (rfl)

theorem LegalWord.jp (nnn : Addr12) : LegalWord.Statement (.jp nnn) :=
  legalWord_of_row _ ⟨"JP_addr", 0x1000#16, 0xF000#16⟩ (by decide) (formatNNN_mask 0x1#4 nnn)

theorem LegalWord.call (nnn : Addr12) : LegalWord.Statement (.call nnn) :=
  legalWord_of_row _ ⟨"CALL_addr", 0x2000#16, 0xF000#16⟩ (by decide) (formatNNN_mask 0x2#4 nnn)

theorem LegalWord.seImm (x : Reg) (nn : Byte) : LegalWord.Statement (.seImm x nn) :=
  legalWord_of_row _ ⟨"SE_Vx__byte", 0x3000#16, 0xF000#16⟩ (by decide) (formatXNN_mask 0x3#4 x nn)

theorem LegalWord.sneImm (x : Reg) (nn : Byte) : LegalWord.Statement (.sneImm x nn) :=
  legalWord_of_row _ ⟨"SNE_Vx__byte", 0x4000#16, 0xF000#16⟩ (by decide) (formatXNN_mask 0x4#4 x nn)

theorem LegalWord.seReg (x : Reg) (y : Reg) : LegalWord.Statement (.seReg x y) :=
  legalWord_of_row _ ⟨"SE_Vx__Vy", 0x5000#16, 0xF00F#16⟩ (by decide) (formatXYN_maskXY 0x5#4 x y 0x0#4)

theorem LegalWord.ldImm (x : Reg) (nn : Byte) : LegalWord.Statement (.ldImm x nn) :=
  legalWord_of_row _ ⟨"LD_Vx__byte", 0x6000#16, 0xF000#16⟩ (by decide) (formatXNN_mask 0x6#4 x nn)

theorem LegalWord.addImm (x : Reg) (nn : Byte) : LegalWord.Statement (.addImm x nn) :=
  legalWord_of_row _ ⟨"ADD_Vx__byte", 0x7000#16, 0xF000#16⟩ (by decide) (formatXNN_mask 0x7#4 x nn)

theorem LegalWord.ldReg (x : Reg) (y : Reg) : LegalWord.Statement (.ldReg x y) :=
  legalWord_of_row _ ⟨"LD_Vx__Vy", 0x8000#16, 0xF00F#16⟩ (by decide) (formatXYN_maskXY 0x8#4 x y 0x0#4)

theorem LegalWord.orReg (x : Reg) (y : Reg) : LegalWord.Statement (.orReg x y) :=
  legalWord_of_row _ ⟨"OR_Vx__Vy", 0x8001#16, 0xF00F#16⟩ (by decide) (formatXYN_maskXY 0x8#4 x y 0x1#4)

theorem LegalWord.andReg (x : Reg) (y : Reg) : LegalWord.Statement (.andReg x y) :=
  legalWord_of_row _ ⟨"AND_Vx__Vy", 0x8002#16, 0xF00F#16⟩ (by decide) (formatXYN_maskXY 0x8#4 x y 0x2#4)

theorem LegalWord.xorReg (x : Reg) (y : Reg) : LegalWord.Statement (.xorReg x y) :=
  legalWord_of_row _ ⟨"XOR_Vx__Vy", 0x8003#16, 0xF00F#16⟩ (by decide) (formatXYN_maskXY 0x8#4 x y 0x3#4)

theorem LegalWord.addReg (x : Reg) (y : Reg) : LegalWord.Statement (.addReg x y) :=
  legalWord_of_row _ ⟨"ADD_Vx__Vy", 0x8004#16, 0xF00F#16⟩ (by decide) (formatXYN_maskXY 0x8#4 x y 0x4#4)

theorem LegalWord.subReg (x : Reg) (y : Reg) : LegalWord.Statement (.subReg x y) :=
  legalWord_of_row _ ⟨"SUB_Vx__Vy", 0x8005#16, 0xF00F#16⟩ (by decide) (formatXYN_maskXY 0x8#4 x y 0x5#4)

theorem LegalWord.shr (x : Reg) (y : Reg) : LegalWord.Statement (.shr x y) :=
  legalWord_of_row _ ⟨"SHR_Vx____Vy", 0x8006#16, 0xF00F#16⟩ (by decide) (formatXYN_maskXY 0x8#4 x y 0x6#4)

theorem LegalWord.subnReg (x : Reg) (y : Reg) : LegalWord.Statement (.subnReg x y) :=
  legalWord_of_row _ ⟨"SUBN_Vx__Vy", 0x8007#16, 0xF00F#16⟩ (by decide) (formatXYN_maskXY 0x8#4 x y 0x7#4)

theorem LegalWord.shl (x : Reg) (y : Reg) : LegalWord.Statement (.shl x y) :=
  legalWord_of_row _ ⟨"SHL_Vx____Vy", 0x800E#16, 0xF00F#16⟩ (by decide) (formatXYN_maskXY 0x8#4 x y 0xE#4)

theorem LegalWord.sneReg (x : Reg) (y : Reg) : LegalWord.Statement (.sneReg x y) :=
  legalWord_of_row _ ⟨"SNE_Vx__Vy", 0x9000#16, 0xF00F#16⟩ (by decide) (formatXYN_maskXY 0x9#4 x y 0x0#4)

theorem LegalWord.ldI (nnn : Addr12) : LegalWord.Statement (.ldI nnn) :=
  legalWord_of_row _ ⟨"LD_I__addr", 0xA000#16, 0xF000#16⟩ (by decide) (formatNNN_mask 0xA#4 nnn)

theorem LegalWord.jpV0 (nnn : Addr12) : LegalWord.Statement (.jpV0 nnn) :=
  legalWord_of_row _ ⟨"JP_V0__addr", 0xB000#16, 0xF000#16⟩ (by decide) (formatNNN_mask 0xB#4 nnn)

theorem LegalWord.rnd (x : Reg) (nn : Byte) : LegalWord.Statement (.rnd x nn) :=
  legalWord_of_row _ ⟨"RND_Vx__byte", 0xC000#16, 0xF000#16⟩ (by decide) (formatXNN_mask 0xC#4 x nn)

theorem LegalWord.drw (x : Reg) (y : Reg) (n : Nibble) : LegalWord.Statement (.drw x y n) :=
  legalWord_of_row _ ⟨"DRW_Vx__Vy__nibble", 0xD000#16, 0xF000#16⟩ (by decide) (formatXYN_mask 0xD#4 x y n)

theorem LegalWord.skp (x : Reg) : LegalWord.Statement (.skp x) :=
  legalWord_of_row _ ⟨"SKP_Vx", 0xE09E#16, 0xF0FF#16⟩ (by decide) (formatXNN_maskX 0xE#4 x 0x9E#8)

theorem LegalWord.sknp (x : Reg) : LegalWord.Statement (.sknp x) :=
  legalWord_of_row _ ⟨"SKNP_Vx", 0xE0A1#16, 0xF0FF#16⟩ (by decide) (formatXNN_maskX 0xE#4 x 0xA1#8)

theorem LegalWord.ldDT (x : Reg) : LegalWord.Statement (.ldDT x) :=
  legalWord_of_row _ ⟨"LD_Vx__DT", 0xF007#16, 0xF0FF#16⟩ (by decide) (formatXNN_maskX 0xF#4 x 0x07#8)

theorem LegalWord.ldK (x : Reg) : LegalWord.Statement (.ldK x) :=
  legalWord_of_row _ ⟨"LD_Vx__K", 0xF00A#16, 0xF0FF#16⟩ (by decide) (formatXNN_maskX 0xF#4 x 0x0A#8)

theorem LegalWord.setDT (x : Reg) : LegalWord.Statement (.setDT x) :=
  legalWord_of_row _ ⟨"LD_DT__Vx", 0xF015#16, 0xF0FF#16⟩ (by decide) (formatXNN_maskX 0xF#4 x 0x15#8)

theorem LegalWord.setST (x : Reg) : LegalWord.Statement (.setST x) :=
  legalWord_of_row _ ⟨"LD_ST__Vx", 0xF018#16, 0xF0FF#16⟩ (by decide) (formatXNN_maskX 0xF#4 x 0x18#8)

theorem LegalWord.addI (x : Reg) : LegalWord.Statement (.addI x) :=
  legalWord_of_row _ ⟨"ADD_I__Vx", 0xF01E#16, 0xF0FF#16⟩ (by decide) (formatXNN_maskX 0xF#4 x 0x1E#8)

theorem LegalWord.ldF (x : Reg) : LegalWord.Statement (.ldF x) :=
  legalWord_of_row _ ⟨"LD_F__Vx", 0xF029#16, 0xF0FF#16⟩ (by decide) (formatXNN_maskX 0xF#4 x 0x29#8)

theorem LegalWord.ldB (x : Reg) : LegalWord.Statement (.ldB x) :=
  legalWord_of_row _ ⟨"LD_B__Vx", 0xF033#16, 0xF0FF#16⟩ (by decide) (formatXNN_maskX 0xF#4 x 0x33#8)

theorem LegalWord.stRange (x : Reg) : LegalWord.Statement (.stRange x) :=
  legalWord_of_row _ ⟨"LD__I___Vx", 0xF055#16, 0xF0FF#16⟩ (by decide) (formatXNN_maskX 0xF#4 x 0x55#8)

theorem LegalWord.ldRange (x : Reg) : LegalWord.Statement (.ldRange x) :=
  legalWord_of_row _ ⟨"LD_Vx___I", 0xF065#16, 0xF0FF#16⟩ (by decide) (formatXNN_maskX 0xF#4 x 0x65#8)

end Sys2Proof.Laws
end

