-- ==== Sys2Proof/Laws/State.lean ====
section
/-! SUPPORT. One lemma per field per update of the state, so that no proof unfolds a record update; and what reading a
register or a key gives after an update. -/

namespace Sys2Proof.Machine

variable (s : State)

/-! ## setV -/

@[simp] theorem State.setV_v (r : Reg) (b : Byte) : (s.setV r b).v = s.v.set r.toNat b r.isLt := rfl
@[simp] theorem State.setV_index (r : Reg) (b : Byte) : (s.setV r b).index = s.index := rfl
@[simp] theorem State.setV_pc (r : Reg) (b : Byte) : (s.setV r b).pc = s.pc := rfl
@[simp] theorem State.setV_stack (r : Reg) (b : Byte) : (s.setV r b).stack = s.stack := rfl
@[simp] theorem State.setV_dt (r : Reg) (b : Byte) : (s.setV r b).dt = s.dt := rfl
@[simp] theorem State.setV_st (r : Reg) (b : Byte) : (s.setV r b).st = s.st := rfl
@[simp] theorem State.setV_fb (r : Reg) (b : Byte) : (s.setV r b).fb = s.fb := rfl
@[simp] theorem State.setV_keys (r : Reg) (b : Byte) : (s.setV r b).keys = s.keys := rfl
@[simp] theorem State.setV_run (r : Reg) (b : Byte) : (s.setV r b).run = s.run := rfl
@[simp] theorem State.setV_mem (r : Reg) (b : Byte) : (s.setV r b).mem = s.mem := rfl
@[simp] theorem State.setV_draws (r : Reg) (b : Byte) : (s.setV r b).draws = s.draws := rfl
@[simp] theorem State.setV_calls (r : Reg) (b : Byte) : (s.setV r b).calls = s.calls := rfl
@[simp] theorem State.setV_key (r : Reg) (b : Byte) (k : Reg) : (s.setV r b).key k = s.key k := rfl

/-! ## setIndex -/

@[simp] theorem State.setIndex_v (w : Word) : (s.setIndex w).v = s.v := rfl
@[simp] theorem State.setIndex_index (w : Word) : (s.setIndex w).index = w := rfl
@[simp] theorem State.setIndex_pc (w : Word) : (s.setIndex w).pc = s.pc := rfl
@[simp] theorem State.setIndex_stack (w : Word) : (s.setIndex w).stack = s.stack := rfl
@[simp] theorem State.setIndex_dt (w : Word) : (s.setIndex w).dt = s.dt := rfl
@[simp] theorem State.setIndex_st (w : Word) : (s.setIndex w).st = s.st := rfl
@[simp] theorem State.setIndex_fb (w : Word) : (s.setIndex w).fb = s.fb := rfl
@[simp] theorem State.setIndex_keys (w : Word) : (s.setIndex w).keys = s.keys := rfl
@[simp] theorem State.setIndex_run (w : Word) : (s.setIndex w).run = s.run := rfl
@[simp] theorem State.setIndex_mem (w : Word) : (s.setIndex w).mem = s.mem := rfl
@[simp] theorem State.setIndex_draws (w : Word) : (s.setIndex w).draws = s.draws := rfl
@[simp] theorem State.setIndex_calls (w : Word) : (s.setIndex w).calls = s.calls := rfl
@[simp] theorem State.setIndex_getV (w : Word) (r : Reg) : (s.setIndex w).getV r = s.getV r := rfl
@[simp] theorem State.setIndex_key (w : Word) (k : Reg) : (s.setIndex w).key k = s.key k := rfl

/-! ## setPc -/

@[simp] theorem State.setPc_v (w : Word) : (s.setPc w).v = s.v := rfl
@[simp] theorem State.setPc_index (w : Word) : (s.setPc w).index = s.index := rfl
@[simp] theorem State.setPc_pc (w : Word) : (s.setPc w).pc = w := rfl
@[simp] theorem State.setPc_stack (w : Word) : (s.setPc w).stack = s.stack := rfl
@[simp] theorem State.setPc_dt (w : Word) : (s.setPc w).dt = s.dt := rfl
@[simp] theorem State.setPc_st (w : Word) : (s.setPc w).st = s.st := rfl
@[simp] theorem State.setPc_fb (w : Word) : (s.setPc w).fb = s.fb := rfl
@[simp] theorem State.setPc_keys (w : Word) : (s.setPc w).keys = s.keys := rfl
@[simp] theorem State.setPc_run (w : Word) : (s.setPc w).run = s.run := rfl
@[simp] theorem State.setPc_mem (w : Word) : (s.setPc w).mem = s.mem := rfl
@[simp] theorem State.setPc_draws (w : Word) : (s.setPc w).draws = s.draws := rfl
@[simp] theorem State.setPc_calls (w : Word) : (s.setPc w).calls = s.calls := rfl
@[simp] theorem State.setPc_getV (w : Word) (r : Reg) : (s.setPc w).getV r = s.getV r := rfl
@[simp] theorem State.setPc_key (w : Word) (k : Reg) : (s.setPc w).key k = s.key k := rfl

/-! ## setStack -/

@[simp] theorem State.setStack_v (l : List Word) : (s.setStack l).v = s.v := rfl
@[simp] theorem State.setStack_index (l : List Word) : (s.setStack l).index = s.index := rfl
@[simp] theorem State.setStack_pc (l : List Word) : (s.setStack l).pc = s.pc := rfl
@[simp] theorem State.setStack_stack (l : List Word) : (s.setStack l).stack = l := rfl
@[simp] theorem State.setStack_dt (l : List Word) : (s.setStack l).dt = s.dt := rfl
@[simp] theorem State.setStack_st (l : List Word) : (s.setStack l).st = s.st := rfl
@[simp] theorem State.setStack_fb (l : List Word) : (s.setStack l).fb = s.fb := rfl
@[simp] theorem State.setStack_keys (l : List Word) : (s.setStack l).keys = s.keys := rfl
@[simp] theorem State.setStack_run (l : List Word) : (s.setStack l).run = s.run := rfl
@[simp] theorem State.setStack_mem (l : List Word) : (s.setStack l).mem = s.mem := rfl
@[simp] theorem State.setStack_draws (l : List Word) : (s.setStack l).draws = s.draws := rfl
@[simp] theorem State.setStack_calls (l : List Word) : (s.setStack l).calls = s.calls := rfl
@[simp] theorem State.setStack_getV (l : List Word) (r : Reg) : (s.setStack l).getV r = s.getV r := rfl
@[simp] theorem State.setStack_key (l : List Word) (k : Reg) : (s.setStack l).key k = s.key k := rfl

/-! ## setDT -/

@[simp] theorem State.setDT_v (b : Byte) : (s.setDT b).v = s.v := rfl
@[simp] theorem State.setDT_index (b : Byte) : (s.setDT b).index = s.index := rfl
@[simp] theorem State.setDT_pc (b : Byte) : (s.setDT b).pc = s.pc := rfl
@[simp] theorem State.setDT_stack (b : Byte) : (s.setDT b).stack = s.stack := rfl
@[simp] theorem State.setDT_dt (b : Byte) : (s.setDT b).dt = b := rfl
@[simp] theorem State.setDT_st (b : Byte) : (s.setDT b).st = s.st := rfl
@[simp] theorem State.setDT_fb (b : Byte) : (s.setDT b).fb = s.fb := rfl
@[simp] theorem State.setDT_keys (b : Byte) : (s.setDT b).keys = s.keys := rfl
@[simp] theorem State.setDT_run (b : Byte) : (s.setDT b).run = s.run := rfl
@[simp] theorem State.setDT_mem (b : Byte) : (s.setDT b).mem = s.mem := rfl
@[simp] theorem State.setDT_draws (b : Byte) : (s.setDT b).draws = s.draws := rfl
@[simp] theorem State.setDT_calls (b : Byte) : (s.setDT b).calls = s.calls := rfl
@[simp] theorem State.setDT_getV (b : Byte) (r : Reg) : (s.setDT b).getV r = s.getV r := rfl
@[simp] theorem State.setDT_key (b : Byte) (k : Reg) : (s.setDT b).key k = s.key k := rfl

/-! ## setST -/

@[simp] theorem State.setST_v (b : Byte) : (s.setST b).v = s.v := rfl
@[simp] theorem State.setST_index (b : Byte) : (s.setST b).index = s.index := rfl
@[simp] theorem State.setST_pc (b : Byte) : (s.setST b).pc = s.pc := rfl
@[simp] theorem State.setST_stack (b : Byte) : (s.setST b).stack = s.stack := rfl
@[simp] theorem State.setST_dt (b : Byte) : (s.setST b).dt = s.dt := rfl
@[simp] theorem State.setST_st (b : Byte) : (s.setST b).st = b := rfl
@[simp] theorem State.setST_fb (b : Byte) : (s.setST b).fb = s.fb := rfl
@[simp] theorem State.setST_keys (b : Byte) : (s.setST b).keys = s.keys := rfl
@[simp] theorem State.setST_run (b : Byte) : (s.setST b).run = s.run := rfl
@[simp] theorem State.setST_mem (b : Byte) : (s.setST b).mem = s.mem := rfl
@[simp] theorem State.setST_draws (b : Byte) : (s.setST b).draws = s.draws := rfl
@[simp] theorem State.setST_calls (b : Byte) : (s.setST b).calls = s.calls := rfl
@[simp] theorem State.setST_getV (b : Byte) (r : Reg) : (s.setST b).getV r = s.getV r := rfl
@[simp] theorem State.setST_key (b : Byte) (k : Reg) : (s.setST b).key k = s.key k := rfl

/-! ## setScreen -/

@[simp] theorem State.setScreen_v (f : FrameBuffer) : (s.setScreen f).v = s.v := rfl
@[simp] theorem State.setScreen_index (f : FrameBuffer) : (s.setScreen f).index = s.index := rfl
@[simp] theorem State.setScreen_pc (f : FrameBuffer) : (s.setScreen f).pc = s.pc := rfl
@[simp] theorem State.setScreen_stack (f : FrameBuffer) : (s.setScreen f).stack = s.stack := rfl
@[simp] theorem State.setScreen_dt (f : FrameBuffer) : (s.setScreen f).dt = s.dt := rfl
@[simp] theorem State.setScreen_st (f : FrameBuffer) : (s.setScreen f).st = s.st := rfl
@[simp] theorem State.setScreen_fb (f : FrameBuffer) : (s.setScreen f).fb = f := rfl
@[simp] theorem State.setScreen_keys (f : FrameBuffer) : (s.setScreen f).keys = s.keys := rfl
@[simp] theorem State.setScreen_run (f : FrameBuffer) : (s.setScreen f).run = s.run := rfl
@[simp] theorem State.setScreen_mem (f : FrameBuffer) : (s.setScreen f).mem = s.mem := rfl
@[simp] theorem State.setScreen_draws (f : FrameBuffer) : (s.setScreen f).draws = s.draws := rfl
@[simp] theorem State.setScreen_calls (f : FrameBuffer) : (s.setScreen f).calls = s.calls := rfl
@[simp] theorem State.setScreen_getV (f : FrameBuffer) (r : Reg) : (s.setScreen f).getV r = s.getV r := rfl
@[simp] theorem State.setScreen_key (f : FrameBuffer) (k : Reg) : (s.setScreen f).key k = s.key k := rfl

/-! ## setKey -/

@[simp] theorem State.setKey_v (k : Reg) (p : Bool) : (s.setKey k p).v = s.v := rfl
@[simp] theorem State.setKey_index (k : Reg) (p : Bool) : (s.setKey k p).index = s.index := rfl
@[simp] theorem State.setKey_pc (k : Reg) (p : Bool) : (s.setKey k p).pc = s.pc := rfl
@[simp] theorem State.setKey_stack (k : Reg) (p : Bool) : (s.setKey k p).stack = s.stack := rfl
@[simp] theorem State.setKey_dt (k : Reg) (p : Bool) : (s.setKey k p).dt = s.dt := rfl
@[simp] theorem State.setKey_st (k : Reg) (p : Bool) : (s.setKey k p).st = s.st := rfl
@[simp] theorem State.setKey_fb (k : Reg) (p : Bool) : (s.setKey k p).fb = s.fb := rfl
@[simp] theorem State.setKey_keys (k : Reg) (p : Bool) : (s.setKey k p).keys = s.keys.set k.toNat p k.isLt := rfl
@[simp] theorem State.setKey_run (k : Reg) (p : Bool) : (s.setKey k p).run = s.run := rfl
@[simp] theorem State.setKey_mem (k : Reg) (p : Bool) : (s.setKey k p).mem = s.mem := rfl
@[simp] theorem State.setKey_draws (k : Reg) (p : Bool) : (s.setKey k p).draws = s.draws := rfl
@[simp] theorem State.setKey_calls (k : Reg) (p : Bool) : (s.setKey k p).calls = s.calls := rfl
@[simp] theorem State.setKey_getV (k : Reg) (p : Bool) (r : Reg) : (s.setKey k p).getV r = s.getV r := rfl

/-! ## setRun -/

@[simp] theorem State.setRun_v (r : RunState) : (s.setRun r).v = s.v := rfl
@[simp] theorem State.setRun_index (r : RunState) : (s.setRun r).index = s.index := rfl
@[simp] theorem State.setRun_pc (r : RunState) : (s.setRun r).pc = s.pc := rfl
@[simp] theorem State.setRun_stack (r : RunState) : (s.setRun r).stack = s.stack := rfl
@[simp] theorem State.setRun_dt (r : RunState) : (s.setRun r).dt = s.dt := rfl
@[simp] theorem State.setRun_st (r : RunState) : (s.setRun r).st = s.st := rfl
@[simp] theorem State.setRun_fb (r : RunState) : (s.setRun r).fb = s.fb := rfl
@[simp] theorem State.setRun_keys (r : RunState) : (s.setRun r).keys = s.keys := rfl
@[simp] theorem State.setRun_run (r : RunState) : (s.setRun r).run = r := rfl
@[simp] theorem State.setRun_mem (r : RunState) : (s.setRun r).mem = s.mem := rfl
@[simp] theorem State.setRun_draws (r : RunState) : (s.setRun r).draws = s.draws := rfl
@[simp] theorem State.setRun_calls (r : RunState) : (s.setRun r).calls = s.calls := rfl
@[simp] theorem State.setRun_getV (u : RunState) (r : Reg) : (s.setRun u).getV r = s.getV r := rfl
@[simp] theorem State.setRun_key (r : RunState) (k : Reg) : (s.setRun r).key k = s.key k := rfl

/-! ## setMem -/

@[simp] theorem State.setMem_v (m : Memory) : (s.setMem m).v = s.v := rfl
@[simp] theorem State.setMem_index (m : Memory) : (s.setMem m).index = s.index := rfl
@[simp] theorem State.setMem_pc (m : Memory) : (s.setMem m).pc = s.pc := rfl
@[simp] theorem State.setMem_stack (m : Memory) : (s.setMem m).stack = s.stack := rfl
@[simp] theorem State.setMem_dt (m : Memory) : (s.setMem m).dt = s.dt := rfl
@[simp] theorem State.setMem_st (m : Memory) : (s.setMem m).st = s.st := rfl
@[simp] theorem State.setMem_fb (m : Memory) : (s.setMem m).fb = s.fb := rfl
@[simp] theorem State.setMem_keys (m : Memory) : (s.setMem m).keys = s.keys := rfl
@[simp] theorem State.setMem_run (m : Memory) : (s.setMem m).run = s.run := rfl
@[simp] theorem State.setMem_mem (m : Memory) : (s.setMem m).mem = m := rfl
@[simp] theorem State.setMem_draws (m : Memory) : (s.setMem m).draws = s.draws := rfl
@[simp] theorem State.setMem_calls (m : Memory) : (s.setMem m).calls = s.calls := rfl
@[simp] theorem State.setMem_getV (m : Memory) (r : Reg) : (s.setMem m).getV r = s.getV r := rfl
@[simp] theorem State.setMem_key (m : Memory) (k : Reg) : (s.setMem m).key k = s.key k := rfl

/-! ## setDraws -/

@[simp] theorem State.setDraws_v (k : Nat) : (s.setDraws k).v = s.v := rfl
@[simp] theorem State.setDraws_index (k : Nat) : (s.setDraws k).index = s.index := rfl
@[simp] theorem State.setDraws_pc (k : Nat) : (s.setDraws k).pc = s.pc := rfl
@[simp] theorem State.setDraws_stack (k : Nat) : (s.setDraws k).stack = s.stack := rfl
@[simp] theorem State.setDraws_dt (k : Nat) : (s.setDraws k).dt = s.dt := rfl
@[simp] theorem State.setDraws_st (k : Nat) : (s.setDraws k).st = s.st := rfl
@[simp] theorem State.setDraws_fb (k : Nat) : (s.setDraws k).fb = s.fb := rfl
@[simp] theorem State.setDraws_keys (k : Nat) : (s.setDraws k).keys = s.keys := rfl
@[simp] theorem State.setDraws_run (k : Nat) : (s.setDraws k).run = s.run := rfl
@[simp] theorem State.setDraws_mem (k : Nat) : (s.setDraws k).mem = s.mem := rfl
@[simp] theorem State.setDraws_draws (k : Nat) : (s.setDraws k).draws = k := rfl
@[simp] theorem State.setDraws_calls (k : Nat) : (s.setDraws k).calls = s.calls := rfl
@[simp] theorem State.setDraws_getV (k : Nat) (r : Reg) : (s.setDraws k).getV r = s.getV r := rfl
@[simp] theorem State.setDraws_key (d : Nat) (k : Reg) : (s.setDraws d).key k = s.key k := rfl

/-! ## setCalls -/

@[simp] theorem State.setCalls_v (l : List HostCall) : (s.setCalls l).v = s.v := rfl
@[simp] theorem State.setCalls_index (l : List HostCall) : (s.setCalls l).index = s.index := rfl
@[simp] theorem State.setCalls_pc (l : List HostCall) : (s.setCalls l).pc = s.pc := rfl
@[simp] theorem State.setCalls_stack (l : List HostCall) : (s.setCalls l).stack = s.stack := rfl
@[simp] theorem State.setCalls_dt (l : List HostCall) : (s.setCalls l).dt = s.dt := rfl
@[simp] theorem State.setCalls_st (l : List HostCall) : (s.setCalls l).st = s.st := rfl
@[simp] theorem State.setCalls_fb (l : List HostCall) : (s.setCalls l).fb = s.fb := rfl
@[simp] theorem State.setCalls_keys (l : List HostCall) : (s.setCalls l).keys = s.keys := rfl
@[simp] theorem State.setCalls_run (l : List HostCall) : (s.setCalls l).run = s.run := rfl
@[simp] theorem State.setCalls_mem (l : List HostCall) : (s.setCalls l).mem = s.mem := rfl
@[simp] theorem State.setCalls_draws (l : List HostCall) : (s.setCalls l).draws = s.draws := rfl
@[simp] theorem State.setCalls_calls (l : List HostCall) : (s.setCalls l).calls = l := rfl
@[simp] theorem State.setCalls_getV (l : List HostCall) (r : Reg) : (s.setCalls l).getV r = s.getV r := rfl
@[simp] theorem State.setCalls_key (l : List HostCall) (k : Reg) : (s.setCalls l).key k = s.key k := rfl

/-! ## advance -/

@[simp] theorem State.advance_v : s.advance.v = s.v := rfl
@[simp] theorem State.advance_index : s.advance.index = s.index := rfl
@[simp] theorem State.advance_pc : s.advance.pc = s.pc + 2#16 := rfl
@[simp] theorem State.advance_stack : s.advance.stack = s.stack := rfl
@[simp] theorem State.advance_dt : s.advance.dt = s.dt := rfl
@[simp] theorem State.advance_st : s.advance.st = s.st := rfl
@[simp] theorem State.advance_fb : s.advance.fb = s.fb := rfl
@[simp] theorem State.advance_keys : s.advance.keys = s.keys := rfl
@[simp] theorem State.advance_run : s.advance.run = s.run := rfl
@[simp] theorem State.advance_mem : s.advance.mem = s.mem := rfl
@[simp] theorem State.advance_draws : s.advance.draws = s.draws := rfl
@[simp] theorem State.advance_calls : s.advance.calls = s.calls := rfl
@[simp] theorem State.advance_getV  (r : Reg) : s.advance.getV r = s.getV r := rfl
@[simp] theorem State.advance_key  (k : Reg) : s.advance.key k = s.key k := rfl

/-! ## skipIf -/

@[simp] theorem State.skipIf_v (taken : Bool) : (s.skipIf taken).v = s.v := rfl
@[simp] theorem State.skipIf_index (taken : Bool) : (s.skipIf taken).index = s.index := rfl
@[simp] theorem State.skipIf_pc (taken : Bool) : (s.skipIf taken).pc = if taken then s.pc + 2#16 + 2#16 else s.pc + 2#16 := rfl
@[simp] theorem State.skipIf_stack (taken : Bool) : (s.skipIf taken).stack = s.stack := rfl
@[simp] theorem State.skipIf_dt (taken : Bool) : (s.skipIf taken).dt = s.dt := rfl
@[simp] theorem State.skipIf_st (taken : Bool) : (s.skipIf taken).st = s.st := rfl
@[simp] theorem State.skipIf_fb (taken : Bool) : (s.skipIf taken).fb = s.fb := rfl
@[simp] theorem State.skipIf_keys (taken : Bool) : (s.skipIf taken).keys = s.keys := rfl
@[simp] theorem State.skipIf_run (taken : Bool) : (s.skipIf taken).run = s.run := rfl
@[simp] theorem State.skipIf_mem (taken : Bool) : (s.skipIf taken).mem = s.mem := rfl
@[simp] theorem State.skipIf_draws (taken : Bool) : (s.skipIf taken).draws = s.draws := rfl
@[simp] theorem State.skipIf_calls (taken : Bool) : (s.skipIf taken).calls = s.calls := rfl
@[simp] theorem State.skipIf_getV (taken : Bool) (r : Reg) : (s.skipIf taken).getV r = s.getV r := rfl
@[simp] theorem State.skipIf_key (taken : Bool) (k : Reg) : (s.skipIf taken).key k = s.key k := rfl

/-! ## Reading after writing -/

/-- R20: a register holds what was last written to it, and writing one leaves the others alone. -/
@[simp] theorem State.getV_setV (r q : Reg) (b : Byte) : (s.setV r b).getV q = if q = r then b else s.getV q := by
  unfold State.getV State.setV
  rw [Vector.getElem_set]
  simp only [← BitVec.toNat_inj, eq_comm]

/-- R130: after a result and a flag, VF holds the flag, the destination the result unless it is VF, and every other
register what it held. -/
theorem State.getV_writeWithFlag (x q : Reg) (result flag : Byte) :
    (s.writeWithFlag x result flag).getV q = if q = VF then flag else if q = x then result else s.getV q := by
  simp [State.writeWithFlag]

/-- R261: a key is as last reported, and reporting one leaves the others alone. -/
@[simp] theorem State.key_setKey (k j : Reg) (p : Bool) : (s.setKey k p).key j = if j = k then p else s.key j := by
  unfold State.key State.setKey
  rw [Vector.getElem_set]
  simp only [← BitVec.toNat_inj, eq_comm]

/-- R224: loading registers leaves everything but the registers alone. -/
theorem State.loadRegs_frame (k : Nat) (bs : List Byte) :
    ∃ u, s.loadRegs k bs = { s with v := u } := by
  induction bs generalizing s k with
  | nil => exact ⟨s.v, rfl⟩
  | cons b bs ih => exact (ih (s.setV (BitVec.ofNat 4 k) b) (k + 1)).imp fun _ h => h

/-- R224: register `k + j` gets byte `j`, and the registers outside the range keep what they held. -/
theorem State.getV_loadRegs (k : Nat) (bs : List Byte) (h : k + bs.length ≤ 16) (q : Reg) :
    (s.loadRegs k bs).getV q = if k ≤ q.toNat ∧ q.toNat < k + bs.length then bs.getD (q.toNat - k) 0#8 else s.getV q := by
  induction bs generalizing s k with
  | nil => simp [State.loadRegs]
  | cons b bs ih =>
    rw [List.length_cons] at h
    rw [State.loadRegs, ih _ (k + 1) (by omega), State.getV_setV, List.length_cons]
    have hq : q = BitVec.ofNat 4 k ↔ q.toNat = k := by
      rw [← BitVec.toNat_inj, BitVec.toNat_ofNat, Nat.mod_eq_of_lt (by omega)]
    by_cases h1 : k + 1 ≤ q.toNat ∧ q.toNat < k + 1 + bs.length
    · rw [if_pos h1, if_pos (by omega), show q.toNat - k = (q.toNat - (k + 1)) + 1 by omega, List.getD_cons_succ]
    · rw [if_neg h1]
      by_cases h2 : q.toNat = k
      · rw [if_pos (hq.2 h2), if_pos (by omega), h2, Nat.sub_self, List.getD_cons_zero]
      · rw [if_neg (fun h => h2 (hq.1 h)), if_neg (by omega)]

/-- R223: the stored byte `j` is register `j`. -/
theorem State.firstRegs_getD (n : Nat) (q : Reg) (hq : q.toNat < n) :
    (s.firstRegs n).getD q.toNat 0#8 = s.getV q := by
  have hq' : q.toNat < 16 := q.isLt
  simp [State.firstRegs, State.getV, List.getD_eq_getElem?_getD, hq, Vector.getElem?_eq_getElem hq']

/-- R223: the first `n` registers are `n` bytes. -/
@[simp] theorem State.firstRegs_length (n : Nat) (h : n ≤ 16) : (s.firstRegs n).length = n := by
  simp [State.firstRegs, h]

end Sys2Proof.Machine
end

