-- ==== Sys2Proof/Laws/Step.lean ====
section
/-! SUPPORT. What the shared operations can do, each said once, and what a cycle and a transaction can do. -/

namespace Sys2Proof.Machine

/-! ## Checks before the body (R244) -/

/-- R243, R244: a check that raises leaves the body undone. -/
theorem checked_some (e : FatalError) (s body : State) :
    checked (some e) s body = .next (s.setRun (.halted e)) := rfl

/-- A check that passes lets the body happen. -/
theorem checked_none (s body : State) : checked none s body = .next body := rfl

/-- R244: a checked body either raises, changing the run state alone, or happens. -/
theorem checked_cases {c : Option FatalError} {s body t : State} (h : checked c s body = .next t) :
    (∃ e, c = some e ∧ t = s.setRun (.halted e)) ∨ (c = none ∧ t = body) := by
  cases c with
  | none => exact .inr ⟨rfl, (Host.Outcome.next.inj h).symm⟩
  | some e => exact .inl ⟨e, rfl, (Host.Outcome.next.inj h).symm⟩

/-- R190, R191, R173: an operand of at most 15 passes. -/
theorem checkOperand_eq_none (v : Byte) (w : Word) : checkOperand v w = none ↔ v.toNat ≤ 15 := by
  unfold checkOperand
  split <;> simp <;> omega

/-- R190, R191, R173: one above 15 raises OperandOutOfRange with the word. -/
theorem checkOperand_eq_some (v : Byte) (w : Word) (h : 15 < v.toNat) :
    checkOperand v w = some (.operandOutOfRange w) := if_pos h

/-- R190: the key index of an operand that passed is the operand. -/
theorem keyIndex_toNat (v : Byte) (h : v.toNat ≤ 15) : (keyIndex v).toNat = v.toNat := by
  rw [keyIndex, BitVec.toNat_setWidth]
  omega

/-- R222, R223: storing at I either raises the first failing address, changing the run state alone, or writes all bytes. -/
theorem storeAtIndex_cases {bytes : List Byte} {s t : State} (h : storeAtIndex bytes s = .next t) :
    (∃ e, checkWrite s.base bytes.length = some e ∧ t = s.setRun (.halted e)) ∨
      (checkWrite s.base bytes.length = none ∧ t = (s.setMem (writeBytes s.mem s.base bytes)).advance) :=
  checked_cases h

/-! ## The cycle (R78, R79, R80) -/

/-- R78: a running cycle is its `runCycle`. -/
theorem cycle_running {s : State} (h : s.run = .running) : cycle s = runCycle s := by
  unfold cycle
  rw [h]

/-- R79, R80: a cycle in any other run state does nothing. -/
theorem cycle_idle {s : State} (h : s.run ≠ .running) : cycle s = .next s := by
  unfold cycle
  split <;> simp_all

/-- R78: a cycle that fetches a word that decodes executes the instruction. -/
theorem runCycle_instr {s : State} {i : Instr} (hpc : fetchFault s.pc = none)
    (hi : decode (fetch16 s.mem s.pc.toNat) = .instr i) : runCycle s = exec i s := by
  unfold runCycle
  rw [hpc]
  simp only [hi]

/-- R78, R246: what a running cycle can do: raise at the fetch, raise at the decode, or execute. -/
theorem runCycle_cases (s : State) :
    (∃ e, fetchFault s.pc = some e ∧ runCycle s = raise e s) ∨
      (fetchFault s.pc = none ∧ ∃ w, decode (fetch16 s.mem s.pc.toNat) = .unknownOpcode w ∧
        runCycle s = raise (.unknownOpcode w) s) ∨
      (fetchFault s.pc = none ∧ ∃ i, decode (fetch16 s.mem s.pc.toNat) = .instr i ∧ runCycle s = exec i s) := by
  cases hf : fetchFault s.pc with
  | some e => exact .inl ⟨e, rfl, by simp only [runCycle, hf]⟩
  | none =>
    cases hd : decode (fetch16 s.mem s.pc.toNat) with
    | unknownOpcode w => exact .inr (.inl ⟨rfl, w, rfl, by simp only [runCycle, hf, hd]⟩)
    | instr i => exact .inr (.inr ⟨rfl, i, rfl, by simp only [runCycle, hf, hd]⟩)

/-! ## Transactions (R270, R271) -/

/-- With no transaction scheduled the host calls `cycle()`. -/
theorem step_nil {s : State} (h : s.calls = []) : step s = cycle s := by
  unfold step performNext
  rw [h]

/-- A scheduled transaction is taken from the schedule and performed. -/
theorem step_cons {s : State} {c : HostCall} {rest : List HostCall} (h : s.calls = c :: rest) :
    step s = transact c (s.setCalls rest) := by
  unfold step performNext
  rw [h]

/-- R292: a ROM that fits replaces the machine state by the reset state with the bytes from 0x200 on. -/
theorem loadRom_of_le {bytes : List Byte} (h : bytes.length ≤ maxRom) (s : State) :
    loadRom bytes s = (resetMachine s).setMem (writeBytes [] progBase bytes) := by
  unfold loadRom
  rw [if_neg (by omega)]
  rfl

/-- R241: one that does not fit changes nothing. -/
theorem loadRom_of_gt {bytes : List Byte} (h : maxRom < bytes.length) (s : State) : loadRom bytes s = s := by
  unfold loadRom
  rw [if_pos h]

end Sys2Proof.Machine
end

