-- ==== Sys2Proof/Tests/Slice0.lean ====
section
/-! SUPPORT. The model's own tests: a word of each form decoded from the patterns of 30_encoding.md R73; words and host calls
the checks refuse; single steps with results from 95_test_vectors.md (each names its vector); and a witness for the
hypotheses of each statement that has any. -/

namespace Sys2Proof.Tests
open Sys2Proof.Machine

/-! ## Helpers -/

/-- The reset state with some registers set. -/
def regs (l : List (Reg × Byte)) : State := l.foldl (fun s p => s.setV p.1 p.2) State.reset

/-- The state with a word at the place `step` fetches from. -/
def placed (s : State) (w : Nat) : State := s.withFetchWord 16 w

/-- The next state of an outcome, if it is one. -/
def nextOf (r : Result) : Option State :=
  match r with
  | .next t => some t
  | .fault _ => none
  | .refused _ => none

/-- The state after one step with a word placed. -/
def after (s : State) (w : Nat) : Option State := nextOf (step (placed s w))

/-- The state after one transaction. -/
def called (c : HostCall) (s : State) : Option State := nextOf (transact c s)

/-- The reset state with I set and bytes stored. -/
def atI (i : Word) (a : Nat) (bs : List Byte) (s : State) : State := (s.setIndex i).setMem (writeBytes s.mem a bs)

/-! ## Decoding (R73): one word written out per form -/

theorem test_decode_control :
    decode 0x00EE#16 = .instr .ret ∧ decode 0x1ABC#16 = .instr (.jp 0xABC#12) ∧
    decode 0x2ABC#16 = .instr (.call 0xABC#12) ∧ decode 0x3A5C#16 = .instr (.seImm 0xA#4 0x5C#8) ∧
    decode 0x4A5C#16 = .instr (.sneImm 0xA#4 0x5C#8) ∧ decode 0x5AB0#16 = .instr (.seReg 0xA#4 0xB#4) ∧
    decode 0x9AB0#16 = .instr (.sneReg 0xA#4 0xB#4) ∧ decode 0xBABC#16 = .instr (.jpV0 0xABC#12) := by decide

theorem test_decode_alu :
    decode 0x6A5C#16 = .instr (.ldImm 0xA#4 0x5C#8) ∧ decode 0x7A5C#16 = .instr (.addImm 0xA#4 0x5C#8) ∧
    decode 0x8AB0#16 = .instr (.ldReg 0xA#4 0xB#4) ∧ decode 0x8AB1#16 = .instr (.orReg 0xA#4 0xB#4) ∧
    decode 0x8AB2#16 = .instr (.andReg 0xA#4 0xB#4) ∧ decode 0x8AB3#16 = .instr (.xorReg 0xA#4 0xB#4) ∧
    decode 0x8AB4#16 = .instr (.addReg 0xA#4 0xB#4) ∧ decode 0x8AB5#16 = .instr (.subReg 0xA#4 0xB#4) ∧
    decode 0x8AB6#16 = .instr (.shr 0xA#4 0xB#4) ∧ decode 0x8AB7#16 = .instr (.subnReg 0xA#4 0xB#4) ∧
    decode 0x8ABE#16 = .instr (.shl 0xA#4 0xB#4) ∧ decode 0xCA5C#16 = .instr (.rnd 0xA#4 0x5C#8) := by decide

theorem test_decode_display_input_timers :
    decode 0x00E0#16 = .instr .cls ∧ decode 0xDAB7#16 = .instr (.drw 0xA#4 0xB#4 7#4) ∧
    decode 0xFA29#16 = .instr (.ldF 0xA#4) ∧ decode 0xEA9E#16 = .instr (.skp 0xA#4) ∧
    decode 0xEAA1#16 = .instr (.sknp 0xA#4) ∧ decode 0xFA0A#16 = .instr (.ldK 0xA#4) ∧
    decode 0xFA07#16 = .instr (.ldDT 0xA#4) ∧ decode 0xFA15#16 = .instr (.setDT 0xA#4) ∧
    decode 0xFA18#16 = .instr (.setST 0xA#4) := by decide

theorem test_decode_index_memory :
    decode 0xAABC#16 = .instr (.ldI 0xABC#12) ∧ decode 0xFA1E#16 = .instr (.addI 0xA#4) ∧
    decode 0xFA33#16 = .instr (.ldB 0xA#4) ∧ decode 0xFA55#16 = .instr (.stRange 0xA#4) ∧
    decode 0xFA65#16 = .instr (.ldRange 0xA#4) := by decide

/-- The map has the 34 rows of R73. -/
theorem test_opcode_map_has_34_rows : opcodeMap.length = 34 := by decide

/-- R70: bytes are taken two at a time, the rest is left, and one byte is too few. -/
theorem test_decode_bytes :
    decodeBytes [0x12#8, 0x28#8, 0xFF#8] = .first (.instr (.jp 0x228#12)) [0xFF#8] ∧
    decodeBytes [0x12#8] = .truncated [0x12#8] ∧ decodeTableWord 16 0xD015 = some (.drw 0#4 1#4 5#4) := by decide

/-! ## The checks refuse what is ill-formed -/

/-- R75, FD-1 to FD-7: a word of each illegal family. -/
theorem test_illegal_words :
    legalWord 0x0000#16 = false ∧ legalWord 0x0123#16 = false ∧ legalWord 0x00E1#16 = false ∧
    legalWord 0x5121#16 = false ∧ legalWord 0x9121#16 = false ∧ legalWord 0x8128#16 = false ∧
    legalWord 0x812F#16 = false ∧ legalWord 0xE5A0#16 = false ∧ legalWord 0xF0FF#16 = false := by decide

/-- R261, R193: host calls beyond the duty. -/
theorem test_host_duties :
    (HostCall.setKey 16 true).dutyKept = false ∧ (HostCall.setKey 15 true).dutyKept = true ∧
    (HostCall.resolveWait 16).dutyKept = false ∧ (HostCall.resolveWait 15).dutyKept = true ∧
    called (.setKey 16 true) State.reset = none ∧ called (.resolveWait 16) State.reset = none := by decide

/-! ## The cycle (95_test_vectors.md 2.1) -/

/-- FD-1, HO-5: the reset state with nothing placed halts on the word 0x0000. -/
theorem test_FD1 : (nextOf (step State.reset)).map (fun t => (t.run, t.pc)) =
    some (.halted (.unknownOpcode 0x0000#16), 0x200#16) := by decide

/-- FD-8, FD-9. -/
theorem test_FD8_FD9 :
    (nextOf (step (State.reset.setPc 0x201#16))).map (·.run) = some (.halted (.pcOutOfRange 0x201#16)) ∧
    (nextOf (step (State.reset.setPc 0x1000#16))).map (·.run) = some (.halted (.pcOutOfRange 0x1000#16)) := by decide

/-- FD-12, FD-13. -/
theorem test_FD12_FD13 :
    replyTo .cycle (State.reset.setRun (.halted .stackUnderflow)) = .err .stackUnderflow ∧
    replyTo .cycle (State.reset.setRun (.awaitingKey 3#4)) = .ok := by decide

/-- R271: a scheduled tick comes first, and the cycle after it. -/
theorem test_schedule_order :
    (nextOf (step ((State.reset.setDT 5#8).setCalls [.tickTimers, .cycle]))).map (fun t => (t.dt, t.calls, t.pc)) =
    some (4#8, [.cycle], 0x200#16) := by decide

/-! ## Control transfer (2.2) -/

theorem test_CT1 : (after State.reset 0x00EE).map (fun t => (t.run, t.pc)) = some (.halted .stackUnderflow, 0x200#16) := by
  decide

theorem test_CT2 : (after ((State.reset.setPc 0x300#16).setStack [0x202#16, 0x404#16]) 0x00EE).map
    (fun t => (t.pc, t.stack)) = some (0x404#16, [0x202#16]) := by decide

theorem test_jump : (after State.reset 0x1228).map (·.pc) = some 0x228#16 := by decide

theorem test_CT3 : (after (State.reset.setPc 0xFFE#16) 0x2ABC).map (fun t => (t.pc, t.stack)) =
    some (0xABC#16, [0x1000#16]) := by decide

theorem test_CT4 : (after (State.reset.setStack (List.replicate 16 0x202#16)) 0x2300).map (fun t => (t.run, t.pc, t.depth)) =
    some (.halted .stackOverflow, 0x200#16, 16) := by decide

theorem test_CT6_CT7 : (after (State.reset.setPc 0xFFE#16) 0x3000).map (·.pc) = some 0x1002#16 ∧
    (after ((regs [(0#4, 1#8)]).setPc 0xFFE#16) 0x3000).map (·.pc) = some 0x1000#16 := by decide

theorem test_CT9 : (after (regs [(0xF#4, 5#8)]) 0x4F05).map (·.pc) = some 0x202#16 := by decide

theorem test_CT10 : (after (regs [(0xF#4, 9#8)]) 0x5FF0).map (·.pc) = some 0x204#16 := by decide

theorem test_CT11 : (after (regs [(1#4, 1#8), (2#4, 1#8)]) 0x9120).map (·.pc) = some 0x202#16 ∧
    (after (regs [(1#4, 7#8), (2#4, 8#8)]) 0x9120).map (·.pc) = some 0x204#16 := by decide

theorem test_CT13_CT15 : (after (regs [(0#4, 0xFF#8)]) 0xBFFF).map (·.pc) = some 0x10FE#16 ∧
    (after (regs [(0#4, 4#8), (3#4, 0x20#8)]) 0xB300).map (·.pc) = some 0x304#16 := by decide

/-! ## Registers and arithmetic (2.3) -/

theorem test_AL1_AL3 : (after (regs [(0xF#4, 1#8)]) 0x6FAB).map (·.getV VF) = some 0xAB#8 ∧
    (after (regs [(0xF#4, 1#8)]) 0x7FFF).map (·.getV VF) = some 0#8 := by decide

theorem test_AL2 : (after (regs [(1#4, 0xFF#8)]) 0x7101).map (fun t => (t.getV 1#4, t.getV VF)) = some (0#8, 0#8) := by decide

theorem test_AL22 : (after (regs [(2#4, 0x99#8), (0xF#4, 1#8)]) 0x8F20).map (·.getV VF) = some 0x99#8 := by decide

theorem test_AL4 : (after (regs [(1#4, 0xF0#8), (2#4, 0x0F#8), (0xF#4, 0x55#8)]) 0x8121).map
    (fun t => (t.getV 1#4, t.getV VF)) = some (0xFF#8, 0x55#8) := by decide

theorem test_AL5 : (after (regs [(1#4, 0xF0#8), (2#4, 0x3C#8)]) 0x8122).map (·.getV 1#4) = some 0x30#8 := by decide

theorem test_AL6 : (after (regs [(1#4, 0xFF#8)]) 0x8113).map (·.getV 1#4) = some 0#8 := by decide

theorem test_S2 : (after (regs [(0#4, 0xFF#8), (1#4, 1#8)]) 0x8014).map (fun t => (t.getV 0#4, t.getV VF, t.pc)) =
    some (0#8, 1#8, 0x202#16) := by decide

theorem test_AL9 : (after (regs [(0xF#4, 0x80#8)]) 0x8FF4).map (·.getV VF) = some 1#8 := by decide

theorem test_S3 : (after (regs [(0#4, 1#8), (1#4, 2#8)]) 0x8015).map (fun t => (t.getV 0#4, t.getV VF)) =
    some (0xFF#8, 0#8) := by decide

theorem test_AL11 : (after (regs [(1#4, 5#8), (0xF#4, 3#8)]) 0x81F5).map (fun t => (t.getV 1#4, t.getV VF)) =
    some (2#8, 1#8) := by decide

theorem test_AL13_AL14 : (after (regs [(1#4, 0x10#8), (2#4, 0x30#8)]) 0x8127).map (fun t => (t.getV 1#4, t.getV VF)) =
    some (0x20#8, 1#8) ∧ (after (regs [(1#4, 0x30#8), (2#4, 0x10#8)]) 0x8127).map (fun t => (t.getV 1#4, t.getV VF)) =
    some (0xE0#8, 0#8) := by decide

/-- AL-15, under both values of SHIFT_SOURCE. -/
theorem test_AL15 : (after (regs [(1#4, 0x40#8), (2#4, 0xFF#8)]) 0x8126).map (fun t => (t.getV 1#4, t.getV VF)) =
    some (0x20#8, 0#8) ∧ (nextOf (shrUnder .vy 1#4 2#4 (regs [(1#4, 0x40#8), (2#4, 0xFF#8)]))).map
      (fun t => (t.getV 1#4, t.getV VF)) = some (0x7F#8, 1#8) := by decide

/-- AL-16, under both values of SHIFT_SOURCE. -/
theorem test_AL16 : (after (regs [(1#4, 0x40#8), (2#4, 0xFF#8)]) 0x812E).map (fun t => (t.getV 1#4, t.getV VF)) =
    some (0x80#8, 0#8) ∧ (nextOf (shlUnder .vy 1#4 2#4 (regs [(1#4, 0x40#8), (2#4, 0xFF#8)]))).map
      (fun t => (t.getV 1#4, t.getV VF)) = some (0xFE#8, 1#8) := by decide

theorem test_AL17_AL19 : (after (regs [(0xF#4, 3#8)]) 0x8F16).map (·.getV VF) = some 1#8 ∧
    (after (regs [(1#4, 0x80#8)]) 0x811E).map (fun t => (t.getV 1#4, t.getV VF)) = some (0#8, 1#8) := by decide

/-- AL-20: mask 0 gives 0 whatever is drawn; the draw is counted. -/
theorem test_AL20 : (after (regs [(1#4, 0x77#8)]) 0xC100).map (fun t => (t.getV 1#4, t.draws)) = some (0#8, 1) := by
  have h : ∀ b : Byte, b &&& 0#8 = 0#8 := fun b => BitVec.and_zero
  show some (Config.drawByte 0 &&& 0#8, 1) = some (0#8, 1)
  rw [h]

/-! ## Display (2.4) -/

theorem test_DI1 : (after (State.reset.setScreen (setPixel clearScreen 5 5 true)) 0x00E0).map
    (fun t => (pixel t.fb 5 5, t.getV VF)) = some (false, 0#8) := by decide

/-- DI-2: the row wraps at the right edge, in the last row. -/
theorem test_DI2 : (after (atI 0x300#16 0x300 [0xFF#8] (regs [(0#4, 60#8), (1#4, 31#8)])) 0xD011).map
    (fun t => (pixel t.fb 59 31, pixel t.fb 60 31, pixel t.fb 3 31, pixel t.fb 4 31, t.getV VF)) =
    some (false, true, true, false, 0#8) := by decide

/-- DI-3: coordinates are reduced first, and a set pixel that is cleared collides. -/
theorem test_DI3 : (after (atI 0x300#16 0x300 [0x81#8]
      ((regs [(0#4, 0x43#8), (1#4, 0x21#8)]).setScreen (setPixel clearScreen 3 1 true))) 0xD015).map
    (fun t => (pixel t.fb 3 1, pixel t.fb 10 1, t.getV VF)) = some (false, true, 1#8) := by decide

/-- DI-9, DI-10. -/
theorem test_DI9_DI10 : (after (regs [(0#4, 0x0F#8)]) 0xF029).map (·.index) = some 0x09B#16 ∧
    (after (regs [(0#4, 0x10#8)]) 0xF029).map (fun t => (t.run, t.index)) =
      some (.halted (.operandOutOfRange 0xF029#16), 0#16) := by decide

/-! ## Input (2.5) -/

theorem test_IN1_IN5 : (after (((regs [(5#4, 0xA#8)]).setKey 0xA#4 true).setPc 0x220#16) 0xE59E).map (·.pc) =
    some 0x224#16 ∧ (after (regs [(5#4, 0x10#8)]) 0xE59E).map (·.run) = some (.halted (.operandOutOfRange 0xE59E#16)) := by
  decide

theorem test_IN3_IN4 : (after ((regs [(5#4, 0xF#8)]).setKey 0xF#4 true) 0xE5A1).map (·.pc) = some 0x202#16 ∧
    (after (regs [(5#4, 0xF#8)]) 0xE5A1).map (·.pc) = some 0x204#16 := by decide

theorem test_IN6 : (after (State.reset.setPc 0x300#16) 0xF00A).map (fun t => (t.run, t.pc, t.getV 0#4)) =
    some (.awaitingKey 0#4, 0x300#16, 0#8) := by decide

theorem test_IN9_IN10 :
    (called (.resolveWait 4) ((State.reset.setPc 0x300#16).setRun (.awaitingKey 0#4))).map
      (fun t => (t.getV 0#4, t.pc, t.run)) = some (4#8, 0x302#16, .running) ∧
    (called (.resolveWait 4) (regs [(0#4, 9#8)])).map (fun t => (t.getV 0#4, t.pc)) = some (9#8, 0x200#16) := by decide

/-! ## Timers (2.6) -/

theorem test_TI1 : (after (State.reset.setDT 0x3C#8) 0xF407).map (fun t => (t.getV 4#4, t.dt)) = some (0x3C#8, 0x3C#8) := by
  decide

theorem test_TI2 : (after (regs [(0xF#4, 0xFF#8)]) 0xFF15).map (·.dt) = some 0xFF#8 := by decide

theorem test_TI3_TI4 : (after (State.reset.setST 5#8) 0xF118).map (fun t => (t.st, t.soundActive)) = some (0#8, false) ∧
    (after (regs [(4#4, 2#8)]) 0xF418).map (fun t => (t.st, t.soundActive)) = some (2#8, true) := by decide

theorem test_TI5_TI6 : (called .tickTimers ((State.reset.setDT 1#8).setST 2#8)).map (fun t => (t.dt, t.st)) =
    some (0#8, 1#8) ∧ (called .tickTimers State.reset).map (fun t => (t.dt, t.st)) = some (0#8, 0#8) := by decide

/-! ## Index and memory (2.7) -/

theorem test_IM1 : (after State.reset 0xAFFF).map (·.index) = some 0xFFF#16 := by decide

theorem test_IM2_IM3 : (after ((regs [(0xF#4, 1#8)]).setIndex 0xFFF#16) 0xFF1E).map (fun t => (t.index, t.getV VF)) =
    some (0x1000#16, 1#8) ∧ (after ((regs [(0#4, 2#8)]).setIndex 0xFFFF#16) 0xF01E).map (·.index) = some 1#16 := by decide

theorem test_IM5 : (after ((regs [(0#4, 255#8)]).setIndex 0x300#16) 0xF033).map (fun t => readBytes t.mem 0x300 3) =
    some [2#8, 5#8, 5#8] := by decide

theorem test_IM7 : (after ((regs [(0#4, 1#8)]).setIndex 0x1FF#16) 0xF033).map (fun t => (t.run, readByte t.mem 0x1FF)) =
    some (.halted (.protectedWrite 0x1FF), 0#8) := by decide

theorem test_IM9 : (after ((regs [(1#4, 1#8), (0xF#4, 0xF#8)]).setIndex 0x300#16) 0xFF55).map
    (fun t => (readByte t.mem 0x301, readByte t.mem 0x30F, readByte t.mem 0x310, t.index)) =
    some (1#8, 0xF#8, 0#8, 0x300#16) := by decide

theorem test_IM10 : (after ((regs [(0#4, 1#8), (1#4, 2#8)]).setIndex 0xFFF#16) 0xF155).map
    (fun t => (t.run, readByte t.mem 0xFFF)) = some (.halted (.memoryOutOfRange 0x1000), 0#8) := by decide

/-- IM-15: reading below 0x200 is allowed; the font's first bytes. -/
theorem test_IM15 : (after ((regs [(3#4, 7#8)]).setIndex 0x50#16) 0xF265).map
    (fun t => (t.getV 0#4, t.getV 1#4, t.getV 2#4, t.getV 3#4)) = some (0xF0#8, 0x90#8, 0x90#8, 7#8) := by decide

theorem test_IM14 : (after ((regs [(0#4, 9#8)]).setIndex 0x1000#16) 0xF265).map (fun t => (t.run, t.getV 0#4)) =
    some (.halted (.memoryOutOfRange 0x1000), 9#8) := by decide

/-! ## Reset and load (2.8) -/

theorem test_HO1 : (called .reset ((regs [(3#4, 7#8)]).setRun (.halted .stackOverflow))).map
    (fun t => (t.getV 3#4, t.run, readByte t.mem 0x073, readByte t.mem 0x0A0)) = some (0#8, .running, 0xF0#8, 0#8) := by decide

/-- HO-6: an odd length. -/
theorem test_HO6 : (called (.loadRom [0x12#8]) (regs [(3#4, 7#8)])).map
    (fun t => (readByte t.mem 0x200, readByte t.mem 0x201, t.getV 3#4)) = some (0x12#8, 0#8, 0#8) := by decide

/-! ## Witnesses: for the hypotheses of each statement, a state and operands that meet them all -/

/-- DecodingAnEncodedInstructionGivesItBack, EncodingADecodedWordGivesItBack, DecoderAgreesWithTheOpcodeMap. -/
theorem witness_encoding : Instr.cls.wellFormed = true ∧ decode 0x00E0#16 = .instr .cls ∧
    decode 0x0000#16 = .unknownOpcode 0x0000#16 ∧
    (⟨"CLS", 0x00E0#16, 0xFFFF#16⟩ : OpcodeRow) ∈ opcodeMap ∧ OpcodeRow.holds ⟨"CLS", 0x00E0#16, 0xFFFF#16⟩ 0x00E0#16 = true := by
  decide

/-- StepRunsTheDecodedInstruction, both clauses, at the highest address that can be fetched. -/
theorem witness_step :
    (placed (State.reset.setPc 0xFFE#16) 0x00E0).canFetch ∧
    decode (fetch16 (placed (State.reset.setPc 0xFFE#16) 0x00E0).mem 0xFFE) = .instr .cls ∧
    (placed (State.reset.setPc 0xFFE#16) 0x00E0).pc = 0xFFE#16 ∧
    (placed (State.reset.setPc 0xFFE#16) 0x00E0).calls = [] ∧
    ((placed (State.reset.setPc 0xFFE#16) 0x00E0).setCalls [.cycle]).canFetch ∧
    ((placed (State.reset.setPc 0xFFE#16) 0x00E0).setCalls [.cycle]).calls = .cycle :: [] := by
  unfold State.canFetch
  decide

/-- FetchOutsideTheEvenAddressesHalts, both ends. -/
theorem witness_bad_pc : (State.reset.setPc 0x1#16).run = .running ∧ (State.reset.setPc 0x1#16).pc.toNat % 2 = 1 ∧
    (State.reset.setPc 0x1000#16).run = .running ∧ 0xFFE < (State.reset.setPc 0x1000#16).pc.toNat := by decide

/-- FetchingAnIllegalWordHalts: the reset state. -/
theorem witness_illegal : State.reset.canFetch ∧ illegalByFamily (fetch16 State.reset.mem State.reset.pc.toNat) := by
  unfold State.canFetch illegalByFamily
  decide

/-- CycleWhileAwaitingAKeyDoesNothing and HaltedStateIsLeftOnlyByResetOrLoad. -/
theorem witness_idle : (State.reset.setRun (.awaitingKey 0xF#4)).run = .awaitingKey 0xF#4 ∧
    (State.reset.setRun (.halted .stackOverflow)).run = .halted .stackOverflow ∧
    (called .tickTimers (State.reset.setRun (.halted .stackOverflow))).isSome = true := by decide

/-- FatalErrorsArePrecise: the cycle from reset. -/
theorem witness_precise : State.reset.run = .running ∧
    cycle State.reset = .next (State.reset.setRun (.halted (.unknownOpcode 0x0000#16))) := by
  exact ⟨rfl, rfl⟩

/-- InstructionsRaiseOnlyTheirListedErrors: RET at depth 0. -/
theorem witness_listed_error : State.reset.run = .running ∧
    exec .ret State.reset = .next (State.reset.setRun (.halted .stackUnderflow)) := ⟨rfl, rfl⟩

/-- ReturnPopsTheStackIntoPc, CallPushesTheReturnAddress: each clause. -/
theorem witness_stack :
    (State.reset.setStack [0x202#16]).stack = [] ++ [0x202#16] ∧ State.reset.stack = [] ∧
    (State.reset.setStack (List.replicate 15 0x202#16)).stack.length < 16 ∧
    (State.reset.setStack (List.replicate 16 0x202#16)).stack.length = 16 := by decide

/-- SkipsOnTwoRegisters, the illegal clause; the flag writers' clauses on a destination that is not VF and on a third
register. -/
theorem witness_fields : (1#4 : Nibble) ≠ 0#4 ∧ (0xE#4 : Reg) ≠ VF ∧ (0#4 : Reg) ≠ 0xE#4 ∧ (0#4 : Reg) ≠ VF := by decide

/-- DrawXorsExactlyTheCoveredPixels: a sprite that ends at the last address, with and without a collision, and none. -/
theorem witness_draw :
    (State.reset.setIndex 0xFF1#16).base + (0xF#4 : Nibble).toNat ≤ 0x1000 ∧ (0#4 : Nibble) = 0#4 ∧
    pixel (atI 0x300#16 0x300 [0x80#8] (State.reset.setScreen (setPixel clearScreen 0 0 true))).fb 0 0 = true ∧
    spriteCovers (atI 0x300#16 0x300 [0x80#8] (State.reset.setScreen (setPixel clearScreen 0 0 true))).spriteRow 1 0 0 0 0 =
      true := by decide

/-- DrawXorsExactlyTheCoveredPixels: the clause without a collision: on a clear screen no pixel is set. -/
theorem witness_draw_clear (row : Nat → Byte) (n x0 y0 : Nat) :
    ¬(∃ px py, pixel State.reset.fb px py = true ∧ spriteCovers row n x0 y0 px py = true) := by
  rintro ⟨px, py, h, -⟩
  exact absurd h (by rw [show State.reset.fb = clearScreen from rfl, pixel_clearScreen]; decide)

/-- DrawFromOutsideMemoryHalts: DI-6, where only the second row is outside. -/
theorem witness_draw_outside : (2#4 : Nibble) ≠ 0#4 ∧ 0x1000 < (State.reset.setIndex 0xFFF#16).base + (2#4 : Nibble).toNat := by
  decide

/-- DrawingTwiceRestoresTheScreen: two draws of the sprite byte 0x80 on a clear screen. -/
theorem witness_draw_twice : (atI 0x300#16 0x300 [0x80#8] State.reset).base + (1#4 : Nibble).toNat ≤ 0x1000 ∧
    ∃ t, exec (.drw 0#4 1#4 1#4) (atI 0x300#16 0x300 [0x80#8] State.reset) = .next t ∧
      (State.getV { t with v := t.v } 0#4).toNat % 64 = 0 ∧ (State.getV { t with v := t.v } 1#4).toNat % 32 = 0 ∧
      (nextOf (exec (.drw 0#4 1#4 1#4) { t with v := t.v })).isSome = true :=
  ⟨by decide, _, rfl, by decide, by decide, by decide⟩

/-- DrawingTwiceRestoresTheScreen: the column in VF, which the first draw overwrites (9 becomes 0) and the registers put
back; and `n = 0` with I above the address space. -/
theorem witness_draw_twice_vf : ∃ t, exec (.drw VF 1#4 1#4) ((atI 0x300#16 0x300 [0x80#8] State.reset).setV VF 9#8) = .next t ∧
    t.getV VF = 0#8 ∧ (State.getV { t with v := (t.setV VF 9#8).v } VF).toNat % 64 = 9 ∧
    (nextOf (exec (.drw VF 1#4 1#4) { t with v := (t.setV VF 9#8).v })).isSome = true :=
  ⟨_, rfl, by decide, by decide, by decide⟩

theorem witness_draw_twice_empty : ∃ t, exec (.drw 0#4 1#4 0#4) (State.reset.setIndex 0xFFFF#16) = .next t ∧
    (nextOf (exec (.drw 0#4 1#4 0#4) { t with v := t.v })).isSome = true :=
  ⟨_, rfl, by decide⟩

/-- GlyphAddressOfADigit and SkipsOnAKey: 15 and 16. -/
theorem witness_operand : ((regs [(0#4, 15#8)]).getV 0#4).toNat ≤ 15 ∧ ((regs [(0#4, 15#8)]).getV 0#4).toNat = (0xF#4 : Reg).toNat ∧
    15 < ((regs [(0#4, 16#8)]).getV 0#4).toNat := by decide

/-- ResolvingAKeyWaitResumes: each clause at 15 or 16. -/
theorem witness_resolve : (15 : Nat) ≤ 15 ∧ (State.reset.setRun (.awaitingKey 0xF#4)).run = .awaitingKey 0xF#4 ∧
    (∀ x, State.reset.run ≠ .awaitingKey x) ∧ (15 : Nat) < 16 := by
  refine ⟨le_rfl, rfl, fun x h => ?_, by decide⟩
  cases h

/-- TickDecrementsTimersToZero: 1 and 0. -/
theorem witness_tick : 0 < (State.reset.setDT 1#8).dt.toNat ∧ State.reset.dt.toNat = 0 ∧
    0 < (State.reset.setST 1#8).st.toNat ∧ State.reset.st.toNat = 0 := by decide

/-- The stores' and the load's clauses at both ends of the range they may use, and just outside it. -/
theorem witness_ranges :
    Memory.wf State.reset.mem ∧ 0x200 ≤ (State.reset.setIndex 0x200#16).base ∧
    (State.reset.setIndex 0xFFD#16).base + 3 ≤ 0x1000 ∧ 0x200 ≤ (State.reset.setIndex 0xFFD#16).base ∧
    (State.reset.setIndex 0xFF0#16).base + (0xF#4 : Reg).toNat + 1 ≤ 0x1000 ∧ 0x200 ≤ (State.reset.setIndex 0xFF0#16).base ∧
    (State.reset.setIndex 0x1FF#16).base < 0x200 ∧
    0x1000 < (State.reset.setIndex 0xFFE#16).base + 3 ∧ 0x200 ≤ (State.reset.setIndex 0xFFE#16).base ∧
    0x1000 < (State.reset.setIndex 0xFF1#16).base + (0xF#4 : Reg).toNat + 1 ∧ 0x200 ≤ (State.reset.setIndex 0xFF1#16).base ∧
    (0xE#4 : Reg).toNat < (0xF#4 : Reg).toNat ∧ (0xF#4 : Reg).toNat ≤ (0xF#4 : Reg).toNat := by decide

/-- StoredBytesAreFetchedAtOnce: FX55 of all registers at 0x300, and its last two bytes. -/
theorem witness_coherence : Memory.wf (State.reset.setIndex 0x300#16).mem ∧
    (State.reset.setIndex 0x300#16).run = .running ∧
    (nextOf (exec (.stRange 0xF#4) (State.reset.setIndex 0x300#16))).map (·.run) = some .running ∧
    (0xF#4 : Reg).toNat = (0xE#4 : Reg).toNat + 1 ∧ (0xF#4 : Reg).toNat ≤ (0xF#4 : Reg).toNat := by decide

/-- LoadRomResetsThenCopies: the largest ROM and one byte more. -/
theorem witness_load : (List.replicate 0xE00 0xFF#8).length ≤ 0xE00 ∧ 0xE00 < (List.replicate 0xE01 0xFF#8).length := by
  rw [List.length_replicate, List.length_replicate]
  decide

/-- SetKeySetsOneKey: 15 and 16, and another key. -/
theorem witness_set_key : (15 : Nat) = (0xF#4 : Reg).toNat ∧ (15 : Nat) < 16 ∧ (0#4 : Reg) ≠ 0xF#4 := by decide

/-- EveryStepKeepsTheInvariant: a step that runs an instruction, from a state that meets the invariant. -/
theorem witness_invariant : (placed State.reset 0x2300).Inv ∧ (nextOf (step (placed State.reset 0x2300))).isSome = true := by
  have hrun : (placed State.reset 0x2300).run = .running := rfl
  have hstack : (placed State.reset 0x2300).stack = [] := rfl
  exact ⟨⟨by decide, by decide, by decide, fun a h => absurd (hstack ▸ h) List.not_mem_nil, by decide, fun x h => absurd (hrun.symm.trans h) (by simp)⟩, by decide⟩

/-- RunStateChangesOnlyAsListed, NoCycleWritesBelow0x200: a cycle that runs FX55. -/
theorem witness_cycle : (called .cycle (placed (State.reset.setIndex 0x300#16) 0xFF55)).isSome = true ∧
    Memory.wf (placed (State.reset.setIndex 0x300#16) 0xFF55).mem := by decide

/-- VFIsWrittenOnlyByItsWriters, EachPieceOfStateHasItsWriters, OtherInstructionsDoNotTouchMemory,
InstructionsDoNotSeeTheSchedule: LD V0, 5. -/
theorem witness_writers : writesFlag (.ldImm 0#4 5#8) = false ∧ ¬namesDest (.ldImm 0#4 5#8) VF ∧
    touchesMemory (.ldImm 0#4 5#8) = false ∧
    exec (.ldImm 0#4 5#8) State.reset = .next (State.reset.writeReg 0#4 5#8) := by
  refine ⟨rfl, ?_, rfl, rfl⟩
  show ¬(VF = 0#4)
  decide

/-- SelfJumpIsAFixedPoint: 0x1200 at 0x200. -/
theorem witness_self_jump : (placed State.reset 0x1200).run = .running ∧ (placed State.reset 0x1200).calls = [] ∧
    (placed State.reset 0x1200).atSelfJump :=
  ⟨rfl, rfl, by decide, 0x200#12, by decide, by decide⟩

end Sys2Proof.Tests
end

section
/-! PROOFS. The rules of the whole machine about its state (10_state.md): what one instruction can do to the state, said
once (`Effect`, `exec_effect`); the invariant of every step, the run state, VF and each other piece of state follow from
it. Then the schedule, which no instruction sees, and the host's views. -/

namespace Sys2Proof.Machine

variable {s t : State} {i : Instr}

/-! ## What one instruction can do -/

/-- What executing `i` from `s` can leave: either a fatal error, which changes the run state alone (R244), or one of the
effects the spec gives to `i`, each under the checks it has passed. -/
inductive Effect (s : State) : Instr → State → Prop
  /-- R243: a fatal error. -/
  | raised {i : Instr} (e : FatalError) : Effect s i (s.setRun (.halted e))
  /-- The general registers, and the count of draws (R142); VF only by a writer of it (R21). -/
  | regs {i : Instr} (v : Vector Byte 16) (d : Nat)
      (hVF : writesFlag i = false → ¬namesDest i VF → State.getV { s with v := v } VF = s.getV VF) :
      Effect s i { s with v := v, draws := d, pc := s.pc + 2#16 }
  /-- R103 to R106, R190, R191: a skip, taken or not. -/
  | skip {i : Instr} (taken : Bool) : Effect s i (s.skipIf taken)
  /-- R101, R107: a jump; the furthest target is 0xFFF + 0xFF. -/
  | jump {i : Instr} (w : Word) (hw : w.toNat ≤ 0x10FE) : Effect s i (s.setPc w)
  /-- R100: the last entry is popped into `pc`. -/
  | ret (l : List Word) (a : Word) (hl : s.stack = l ++ [a]) : Effect s .ret ((s.setStack l).setPc a)
  /-- R102: below depth 16 the next address is pushed. -/
  | call (nnn : Addr12) (hd : s.depth < 16) : Effect s (.call nnn) ((s.push s.nextPc).setPc (zext16 nnn))
  /-- R170. -/
  | cls : Effect s .cls (s.setScreen clearScreen).advance
  /-- R171: the screen, and VF as the collision flag. -/
  | draw (x y : Reg) (n : Nibble) (f : FrameBuffer) (b : Byte) :
      Effect s (.drw x y n) ((s.setScreen f).setV VF b).advance
  /-- R173, R220, R221: the index register. -/
  | index {i : Instr} (w : Word) (hi : (∃ nnn, i = .ldI nnn) ∨ (∃ x, i = .addI x) ∨ ∃ x, i = .ldF x) :
      Effect s i (s.setIndex w).advance
  /-- R211. -/
  | delay (x : Reg) (b : Byte) : Effect s (.setDT x) (s.setDT b).advance
  /-- R212. -/
  | sound (x : Reg) (b : Byte) : Effect s (.setST x) (s.setST b).advance
  /-- R222, R223: bytes at I, all of them from 0x200 on and inside the address space (R58, R59). -/
  | store {i : Instr} (bs : List Byte) (hi : (∃ x, i = .ldB x) ∨ ∃ x, i = .stRange x)
      (hlow : progBase ≤ s.base) (hhigh : s.base + bs.length ≤ memSize) :
      Effect s i (s.setMem (writeBytes s.mem s.base bs)).advance
  /-- R192: the wait for a key; `pc` stays. -/
  | wait (x : Reg) : Effect s (.ldK x) (s.setRun (.awaitingKey x))

/-- R24, R101: a zero-extended address is at most 0xFFF. -/
theorem zext16_toNat_le (nnn : Addr12) : (zext16 nnn).toNat ≤ 0xFFF := by
  rw [zext16, BitVec.toNat_setWidth]
  omega

/-- R107: the target of JP V0 is at most 0x10FE. -/
theorem offsetTarget_toNat_le (nnn : Addr12) (v0 : Byte) : (offsetTarget nnn v0).toNat ≤ 0x10FE := by
  rw [offsetTarget, BitVec.toNat_ofNat]
  omega

/-- R142, R20: writing the named destination, with or without a draw, is an effect on the registers. -/
theorem Effect.writeReg (d : Nat) (x : Reg) (b : Byte) (hx : namesDest i x) :
    Effect s i ((s.setDraws d).writeReg x b) :=
  .regs _ d fun _ hVF => by
    have hne : VF ≠ x := fun h => hVF (h ▸ hx)
    exact (State.getV_setV s x VF b).trans (if_neg hne)

/-- R130: a result and a flag are an effect on the registers of the flag writers. -/
theorem Effect.writeWithFlag (x : Reg) (result flag : Byte) (hi : writesFlag i = true) :
    Effect s i (s.writeWithFlag x result flag) :=
  .regs _ s.draws fun h => absurd (hi.symm.trans h) (by decide)

/-- R224: FX65 leaves the registers above `x` alone, so VF unless it is in the range. -/
theorem Effect.loadRange (x : Reg) :
    Effect s (.ldRange x) (s.loadRegs 0 (readBytes s.mem s.base (rangeCount x))).advance := by
  obtain ⟨v, hv⟩ := s.loadRegs_frame 0 (readBytes s.mem s.base (rangeCount x))
  rw [hv]
  refine .regs v s.draws fun _ hVF => ?_
  have hx : x.toNat < VF.toNat := Nat.lt_of_not_le hVF
  have hVF16 : VF.toNat < 16 := VF.isLt
  have hlen : (readBytes s.mem s.base (rangeCount x)).length = x.toNat + 1 := readBytes_length ..
  rw [← hv, State.getV_loadRegs _ _ _ (by omega), if_neg (by omega)]

/-- An unchecked body has the effect it is. -/
theorem effect_of_next {u : State} (hu : Effect s i u) (h : (.next u : Result) = .next t) : Effect s i t :=
  Host.Outcome.next.inj h ▸ hu

/-- R244: a checked body raises, or has the effect it is once the check has passed. -/
theorem effect_of_checked {c : Option FatalError} {body : State} (hbody : c = none → Effect s i body)
    (h : checked c s body = .next t) : Effect s i t := by
  obtain ⟨e, -, rfl⟩ | ⟨hc, rfl⟩ := checked_cases h
  · exact .raised e
  · exact hbody hc

/-- R222, R223: a store at I of at least one byte. -/
theorem effect_of_storeAtIndex {bs : List Byte} (hi : (∃ x, i = .ldB x) ∨ ∃ x, i = .stRange x) (hbs : bs.length ≠ 0)
    (h : storeAtIndex bs s = .next t) : Effect s i t :=
  effect_of_checked (fun hc => by
    obtain ⟨hlow, hhigh⟩ := ((checkWrite_eq_none _ _).1 hc).resolve_left hbs
    exact .store bs hi hlow hhigh) h

/-- R223: FX55 stores V0 to Vx, `x + 1` bytes. -/
theorem firstRegs_rangeCount_length (s : State) (x : Reg) : (s.firstRegs (rangeCount x)).length = x.toNat + 1 :=
  State.firstRegs_length s _ x.isLt

/-- R100: RET. -/
theorem effect_of_execRet (h : execRet s = .next t) : Effect s .ret t := by
  unfold execRet at h
  split at h
  · exact effect_of_next (.raised _) h
  · next a ha => exact effect_of_next (.ret _ a (List.dropLast_append_getLast? a ha).symm) h

/-- R102: CALL. -/
theorem effect_of_execCall {nnn : Addr12} (h : execCall nnn s = .next t) : Effect s (.call nnn) t :=
  effect_of_checked (fun hc => .call nnn (by by_contra hd; rw [if_pos (by omega)] at hc; cases hc)) h

/-- Every instruction has one of the effects. -/
theorem exec_effect (h : exec i s = .next t) : Effect s i t :=
  match i, h with
  | .cls, h => effect_of_next .cls h
  | .ret, h => effect_of_execRet h
  | .jp nnn, h => effect_of_next (.jump _ ((zext16_toNat_le nnn).trans (by decide))) h
  | .call _, h => effect_of_execCall h
  | .seImm _ _, h => effect_of_next (.skip _) h
  | .sneImm _ _, h => effect_of_next (.skip _) h
  | .seReg _ _, h => effect_of_next (.skip _) h
  | .ldImm x _, h => effect_of_next (.writeReg s.draws x _ rfl) h
  | .addImm x _, h => effect_of_next (.writeReg s.draws x _ rfl) h
  | .ldReg x _, h => effect_of_next (.writeReg s.draws x _ rfl) h
  | .orReg x _, h => effect_of_next (.writeReg s.draws x _ rfl) h
  | .andReg x _, h => effect_of_next (.writeReg s.draws x _ rfl) h
  | .xorReg x _, h => effect_of_next (.writeReg s.draws x _ rfl) h
  | .addReg x _, h => effect_of_next (.writeWithFlag x _ _ rfl) h
  | .subReg x _, h => effect_of_next (.writeWithFlag x _ _ rfl) h
  | .shr x _, h => effect_of_next (.writeWithFlag x _ _ rfl) h
  | .subnReg x _, h => effect_of_next (.writeWithFlag x _ _ rfl) h
  | .shl x _, h => effect_of_next (.writeWithFlag x _ _ rfl) h
  | .sneReg _ _, h => effect_of_next (.skip _) h
  | .ldI nnn, h => effect_of_next (.index _ (.inl ⟨nnn, rfl⟩)) h
  | .jpV0 nnn, h => effect_of_next (.jump _ (offsetTarget_toNat_le nnn _)) h
  | .rnd x _, h => effect_of_next (.writeReg (s.draws + 1) x _ rfl) h
  | .drw x y n, h => effect_of_checked (fun _ => .draw x y n _ _) h
  | .skp _, h => effect_of_checked (fun _ => .skip _) h
  | .sknp _, h => effect_of_checked (fun _ => .skip _) h
  | .ldDT x, h => effect_of_next (.writeReg s.draws x _ rfl) h
  | .ldK x, h => effect_of_next (.wait x) h
  | .setDT x, h => effect_of_next (.delay x _) h
  | .setST x, h => effect_of_next (.sound x _) h
  | .addI x, h => effect_of_next (.index _ (.inr (.inl ⟨x, rfl⟩))) h
  | .ldF x, h => effect_of_checked (fun _ => .index _ (.inr (.inr ⟨x, rfl⟩))) h
  | .ldB x, h => effect_of_storeAtIndex (.inl ⟨x, rfl⟩) (by simp [bcdDigits]) h
  | .stRange x, h => effect_of_storeAtIndex (.inr ⟨x, rfl⟩)
      (by rw [firstRegs_rangeCount_length]; exact Nat.succ_ne_zero _) h
  | .ldRange x, h => effect_of_checked (fun _ => .loadRange x) h

/-! ## The invariant of every step -/

/-- A move that keeps memory and the stack keeps the invariant, if `pc` is still bounded and a wait still fetchable. -/
theorem State.Inv.of_mem_stack_eq (hs : s.Inv) (hmem : t.mem = s.mem) (hstack : t.stack = s.stack)
    (hpc : t.pc.toNat ≤ 0x10FE) (hwait : ∀ x, t.run = .awaitingKey x → fetchFault t.pc = none) : t.Inv where
  memCanonical := hmem ▸ hs.memCanonical
  memUnprotected := hmem ▸ hs.memUnprotected
  depthBound := hstack ▸ hs.depthBound
  returnAddresses := hstack ▸ hs.returnAddresses
  pcBound := hpc
  waitFetchable := hwait

/-- One that keeps `pc` and the run state as well keeps it at once. -/
theorem State.Inv.of_eq (hs : s.Inv) (hmem : t.mem = s.mem) (hstack : t.stack = s.stack) (hpc : t.pc = s.pc)
    (hrun : t.run = s.run) : t.Inv :=
  hs.of_mem_stack_eq hmem hstack (hpc ▸ hs.pcBound) fun x hx => hpc ▸ hs.waitFetchable x (hrun ▸ hx)

/-- R24: past an instruction that was fetched `pc` is even and at most 0x1000. -/
theorem toNat_add_two_of_fetch {pc : Word} (hf : fetchFault pc = none) :
    (pc + 2#16).toNat % 2 = 0 ∧ (pc + 2#16).toNat ≤ 0x1000 := by
  obtain ⟨heven, hle⟩ := (fetchFault_eq_none pc).1 hf
  rw [BitVec.toNat_add, BitVec.toNat_ofNat]
  omega

/-- R103: past a skip, taken or not, `pc` is at most 0x1002. -/
theorem skipIf_pc_toNat_le (hf : fetchFault s.pc = none) (taken : Bool) : (s.skipIf taken).pc.toNat ≤ 0x1002 := by
  obtain ⟨-, hle⟩ := toNat_add_two_of_fetch hf
  rw [State.skipIf_pc]
  split
  · rw [BitVec.toNat_add _ 2#16, BitVec.toNat_ofNat]
    omega
  · omega

/-- R24, R25, R53, R59: the effect of an instruction that a running core has fetched keeps the invariant. -/
theorem Effect.keeps_inv (he : Effect s i t) (hs : s.Inv) (hrun : s.run = .running) (hf : fetchFault s.pc = none) :
    t.Inv := by
  obtain ⟨heven, hnext⟩ := toNat_add_two_of_fetch hf
  have hpc : (s.pc + 2#16).toNat ≤ 0x10FE := hnext.trans (by decide)
  have hwait : ∀ (w : Word) (x : Reg), s.run = .awaitingKey x → fetchFault w = none := fun _ x hx => by
    rw [hrun] at hx; cases hx
  cases he with
  | raised e => exact hs.of_mem_stack_eq rfl rfl hs.pcBound (by simp)
  | regs v d _ => exact hs.of_mem_stack_eq rfl rfl hpc (hwait _)
  | skip taken => exact hs.of_mem_stack_eq rfl rfl ((skipIf_pc_toNat_le hf taken).trans (by decide)) (hwait _)
  | jump w hw => exact hs.of_mem_stack_eq rfl rfl hw (hwait _)
  | ret l a hl =>
    have hdepth := hs.depthBound
    have haddr := hs.returnAddresses
    rw [hl] at hdepth haddr
    exact ⟨hs.memCanonical, hs.memUnprotected, by simp at hdepth ⊢; omega, fun b hb => haddr b (List.mem_append_left _ hb),
      (haddr a (by simp)).2.trans (by decide), hwait _⟩
  | call nnn hd =>
    refine ⟨hs.memCanonical, hs.memUnprotected, ?_, fun b hb => ?_, (zext16_toNat_le nnn).trans (by decide), hwait _⟩
    · have : (s.stack ++ [s.nextPc]).length = s.depth + 1 := List.length_append
      exact this ▸ hd
    · rcases List.mem_append.1 hb with hb | hb
      · exact hs.returnAddresses b hb
      · exact List.mem_singleton.1 hb ▸ ⟨heven, hnext⟩
  | cls => exact hs.of_mem_stack_eq rfl rfl hpc (hwait _)
  | draw x y n f b => exact hs.of_mem_stack_eq rfl rfl hpc (hwait _)
  | index w _ => exact hs.of_mem_stack_eq rfl rfl hpc (hwait _)
  | delay x b => exact hs.of_mem_stack_eq rfl rfl hpc (hwait _)
  | sound x b => exact hs.of_mem_stack_eq rfl rfl hpc (hwait _)
  | store bs _ hlow hhigh =>
    refine ⟨wf_writeBytes _ hs.memCanonical _ bs hhigh, fun c hc => ?_, hs.depthBound, hs.returnAddresses, hpc, hwait _⟩
    exact (mem_writeBytes _ _ bs c hc).elim (hs.memUnprotected c) hlow.trans
  | wait x => exact hs.of_mem_stack_eq rfl rfl hs.pcBound fun _ _ => hf

/-- R78, R79, R80: so does every cycle. -/
theorem cycle_keeps_inv (hs : s.Inv) (h : cycle s = .next t) : t.Inv := by
  by_cases hrun : s.run = .running
  · rw [cycle_running hrun] at h
    have hraise : ∀ e, raise e s = .next t → t.Inv := fun e he =>
      Host.Outcome.next.inj he ▸ hs.of_mem_stack_eq rfl rfl hs.pcBound (by simp)
    obtain ⟨e, -, he⟩ | ⟨-, w, -, hw⟩ | ⟨hf, i, -, hi⟩ := runCycle_cases s
    · exact hraise _ (he ▸ h)
    · exact hraise _ (hw ▸ h)
    · exact (exec_effect (hi ▸ h)).keeps_inv hs hrun hf
  · rw [cycle_idle hrun] at h
    exact Host.Outcome.next.inj h ▸ hs

/-- R290: `reset()` meets the invariant from any state. -/
theorem resetMachine_inv (s : State) : (resetMachine s).Inv where
  memCanonical := ⟨.nil, fun _ hc => absurd hc List.not_mem_nil⟩
  memUnprotected := fun _ hc => absurd hc List.not_mem_nil
  depthBound := Nat.zero_le _
  returnAddresses := fun _ ha => absurd ha List.not_mem_nil
  pcBound := (by decide : (0x200#16).toNat ≤ 0x10FE)
  waitFetchable := fun _ hx => nomatch hx

/-- R292, R241: `load_rom` keeps the invariant, whether the ROM fits or not. -/
theorem loadRom_keeps_inv (hs : s.Inv) (bytes : List Byte) : (loadRom bytes s).Inv := by
  have hr := resetMachine_inv s
  by_cases hfit : bytes.length ≤ maxRom
  · have hend : progBase + bytes.length ≤ memSize := Nat.add_le_add_left hfit progBase
    rw [loadRom_of_le hfit]
    exact ⟨wf_writeBytes [] hr.memCanonical progBase bytes hend,
      fun c hc => (mem_writeBytes [] progBase bytes c hc).elim (hr.memUnprotected c) id,
      hr.depthBound, hr.returnAddresses, hr.pcBound, hr.waitFetchable⟩
  · rw [loadRom_of_gt (by omega)]
    exact hs

/-- R193: `resolve_wait` while awaiting a key. -/
theorem resolveWait_awaiting {x : Reg} (hrun : s.run = .awaitingKey x) (k : Reg) :
    resolveWait k s = ((s.setV x (k.setWidth 8)).setPc (s.pc + 2#16)).setRun .running := by
  unfold resolveWait
  rw [hrun]

/-- R193, D13: in any other run state it has no effect. -/
theorem resolveWait_idle (hrun : ∀ x, s.run ≠ .awaitingKey x) (k : Reg) : resolveWait k s = s := by
  unfold resolveWait
  split
  · next x hx => exact absurd hx (hrun x)
  · rfl
  · rfl

/-- R193: `resolve_wait` keeps the invariant: the FX0A it passes could be fetched. -/
theorem resolveWait_keeps_inv (hs : s.Inv) (k : Reg) : (resolveWait k s).Inv := by
  by_cases hwait : ∃ x, s.run = .awaitingKey x
  · obtain ⟨x, hx⟩ := hwait
    obtain ⟨-, hnext⟩ := toNat_add_two_of_fetch (hs.waitFetchable x hx)
    rw [resolveWait_awaiting hx]
    exact hs.of_mem_stack_eq rfl rfl (hnext.trans (by decide)) (by simp)
  · rw [resolveWait_idle (not_exists.1 hwait)]
    exact hs

/-- R261: a `set_key` that has a move is the InputLatch's update. -/
theorem transact_setKey_next {index : Nat} {p : Bool} (h : transact (.setKey index p) s = .next t) :
    t = s.setKey (BitVec.ofNat 4 index) p := by
  simp only [transact] at h
  split at h <;> cases h
  rfl

/-- R193: a `resolve_wait` that has a move. -/
theorem transact_resolveWait_next {value : Nat} (h : transact (.resolveWait value) s = .next t) :
    t = resolveWait (BitVec.ofNat 4 value) s := by
  simp only [transact] at h
  split at h <;> cases h
  rfl

/-- R270: every transaction keeps the invariant. -/
theorem transact_keeps_inv (c : HostCall) (hs : s.Inv) (h : transact c s = .next t) : t.Inv := by
  cases c with
  | reset => exact Host.Outcome.next.inj h ▸ resetMachine_inv s
  | loadRom bytes => exact Host.Outcome.next.inj h ▸ loadRom_keeps_inv hs bytes
  | cycle => exact cycle_keeps_inv hs h
  | tickTimers => exact Host.Outcome.next.inj h ▸ hs.of_eq rfl rfl rfl rfl
  | setKey index p => exact transact_setKey_next h ▸ hs.of_eq rfl rfl rfl rfl
  | resolveWait value => exact transact_resolveWait_next h ▸ resolveWait_keeps_inv hs _
  | readPixels | readDebug | readSound => exact Host.Outcome.next.inj h ▸ hs

/-- Settles O52: a step is a cycle or the first transaction of the schedule, and both keep the invariant. -/
theorem everyStepKeepsTheInvariant : Obligations.EveryStepKeepsTheInvariant := by
  intro s t hs h
  cases hc : s.calls with
  | nil => exact cycle_keeps_inv hs (step_nil hc ▸ h)
  | cons c rest =>
    have hrest : (s.setCalls rest).Inv := hs.of_eq rfl rfl rfl rfl
    exact transact_keeps_inv c hrest (step_cons hc ▸ h)

/-! ## The run state (R32) -/

/-- R32: an instruction keeps the run state, raises, or is an FX0A that starts the wait for its register. -/
theorem Effect.run_cases (he : Effect s i t) :
    t.run = s.run ∨ (∃ x, i = .ldK x ∧ t.run = .awaitingKey x) ∨ ∃ e, t.run = .halted e := by
  cases he with
  | raised e => exact .inr (.inr ⟨e, rfl⟩)
  | wait x => exact .inr (.inl ⟨x, rfl, rfl⟩)
  | _ => exact .inl rfl

/-- R32: what a running cycle does to the run state. -/
theorem cycle_run_cases (hrun : s.run = .running) (h : cycle s = .next t) :
    t.run = s.run ∨ (∃ x, decode (fetch16 s.mem s.pc.toNat) = .instr (.ldK x) ∧ t.run = .awaitingKey x) ∨
      ∃ e, t.run = .halted e := by
  rw [cycle_running hrun] at h
  have hraise : ∀ e, raise e s = .next t → ∃ e, t.run = .halted e := fun e he => ⟨e, Host.Outcome.next.inj he ▸ rfl⟩
  obtain ⟨e, -, he⟩ | ⟨-, w, -, hw⟩ | ⟨-, i, hd, hi⟩ := runCycle_cases s
  · exact .inr (.inr (hraise _ (he ▸ h)))
  · exact .inr (.inr (hraise _ (hw ▸ h)))
  · obtain hsame | ⟨x, rfl, hx⟩ | hhalt := (exec_effect (hi ▸ h)).run_cases
    · exact .inl hsame
    · exact .inr (.inl ⟨x, hd, hx⟩)
    · exact .inr (.inr hhalt)

/-- Settles O53: transaction by transaction; the cycle by what its instruction can do to the run state. -/
theorem runStateChangesOnlyAsListed : Obligations.RunStateChangesOnlyAsListed := by
  intro s t c h
  cases c with
  | reset => exact .inr (.inr (.inr ⟨.inl rfl, Host.Outcome.next.inj h ▸ rfl⟩))
  | loadRom bytes =>
    obtain rfl := Host.Outcome.next.inj h
    by_cases hfit : bytes.length ≤ maxRom
    · exact .inr (.inr (.inr ⟨.inr ⟨bytes, rfl, hfit⟩, by rw [loadRom_of_le hfit]; rfl⟩))
    · exact .inl (by rw [loadRom_of_gt (by omega)])
  | cycle =>
    by_cases hrun : s.run = .running
    · exact (cycle_run_cases hrun h).imp_right fun hchange => .inl ⟨rfl, hrun, hchange⟩
    · exact .inl (by rw [Host.Outcome.next.inj ((cycle_idle hrun).symm.trans h)])
  | resolveWait value =>
    obtain rfl := transact_resolveWait_next h
    by_cases hwait : ∃ x, s.run = .awaitingKey x
    · obtain ⟨x, hx⟩ := hwait
      exact .inr (.inr (.inl ⟨value, x, rfl, hx, by rw [resolveWait_awaiting hx]; rfl⟩))
    · exact .inl (by rw [resolveWait_idle (not_exists.1 hwait)])
  | setKey index p => exact .inl (transact_setKey_next h ▸ rfl)
  | tickTimers | readPixels | readDebug | readSound => exact .inl (Host.Outcome.next.inj h ▸ rfl)

/-! ## Who writes which piece of state -/

/-- Settles O55: only the registers' effect and the draw reach VF, and the draw is a flag writer. -/
theorem vfIsWrittenOnlyByItsWriters : Obligations.VFIsWrittenOnlyByItsWriters := by
  intro i s t hflag hdest h
  cases exec_effect h with
  | regs v d hVF => exact hVF hflag hdest
  | draw x y n f b => cases hflag
  | _ => rfl

/-- Settles O56: each effect on a piece of state outside the general registers belongs to the instructions it names. -/
theorem eachPieceOfStateHasItsWriters : Obligations.EachPieceOfStateHasItsWriters := by
  intro i s t h
  cases exec_effect h with
  | ret | call | cls | draw | delay | sound => simp [State.push]
  | index w hi => obtain ⟨nnn, rfl⟩ | ⟨x, rfl⟩ | ⟨x, rfl⟩ := hi <;> simp
  | store bs hi => obtain ⟨x, rfl⟩ | ⟨x, rfl⟩ := hi <;> simp
  | raised | regs | skip | jump | wait => simp

/-! ## The host's schedule (R35, R271) -/

/-- A check does not see the schedule, and neither outcome changes it. -/
theorem checked_setCalls {c : Option FatalError} {body : State} (l : List HostCall) (h : checked c s body = .next t) :
    checked c (s.setCalls l) (body.setCalls l) = .next (t.setCalls l) := by
  obtain ⟨e, rfl, rfl⟩ | ⟨rfl, rfl⟩ := checked_cases h
  · rfl
  · rfl

/-- R224: loading registers commutes with setting the schedule. -/
theorem loadRegs_setCalls (s : State) (k : Nat) (bs : List Byte) (l : List HostCall) :
    (s.setCalls l).loadRegs k bs = (s.loadRegs k bs).setCalls l := by
  induction bs generalizing s k with
  | nil => rfl
  | cons b bs ih => exact ih (s.setV (BitVec.ofNat 4 k) b) (k + 1)

/-- R100: RET neither sees nor changes the schedule. -/
theorem execRet_setCalls (l : List HostCall) (h : execRet s = .next t) :
    execRet (s.setCalls l) = .next (t.setCalls l) := by
  unfold execRet at h ⊢
  rw [State.setCalls_stack]
  split at h <;> obtain rfl := Host.Outcome.next.inj h <;> rfl

/-- R224: nor does FX65. -/
theorem execLdRange_setCalls {x : Reg} (l : List HostCall) (h : execLdRange x s = .next t) :
    execLdRange x (s.setCalls l) = .next (t.setCalls l) := by
  have hload := loadRegs_setCalls s 0 (readBytes s.mem s.base (rangeCount x)) l
  have hbody := congrArg State.advance hload
  exact (congrArg (checked _ (s.setCalls l)) hbody).trans (checked_setCalls l h)

/-- Settles O58: what an instruction checks and does commutes with setting the schedule. -/
theorem instructionsDoNotSeeTheSchedule : Obligations.InstructionsDoNotSeeTheSchedule := by
  intro i s t l h
  cases i with
  | ret => exact execRet_setCalls l h
  | ldRange x => exact execLdRange_setCalls l h
  | call | drw | skp | sknp | ldF | ldB | stRange => exact checked_setCalls l h
  | _ => exact Host.Outcome.next.inj h ▸ rfl

/-! ## The host's views (R36, R28, R273) -/

/-- R28: `sound_active` is ST ≠ 0. -/
theorem soundActive_eq (s : State) : s.soundActive = decide (s.st.toNat ≠ 0) := by
  simp [State.soundActive, bne, beq_eq_decide, ← BitVec.toNat_inj]

/-- Settles O50: each view is the field it names, and `sound_active` is ST ≠ 0. -/
theorem viewsReadWithoutChange : Obligations.ViewsReadWithoutChange := fun s =>
  ⟨rfl, rfl, rfl, rfl, rfl, congrArg HostReply.sound (soundActive_eq s)⟩

end Sys2Proof.Machine
end

section
/-! PROOFS. Memory (20_memory.md): what a store that may not be made leaves (R58, R59), that a stored byte is fetched at
once (R65), that no cycle reaches below 0x200 (R53), and that only four instructions touch memory at all (R57). -/

namespace Sys2Proof.Machine

variable {s t : State} {i : Instr}

/-! ## Forbidden stores (R58, R59, R246) -/

/-- R244: a store whose check raises halts with that error and writes nothing. -/
theorem storeAtIndex_of_check {bs : List Byte} {e : FatalError} (h : checkWrite s.base bs.length = some e) :
    storeAtIndex bs s = .next (s.setRun (.halted e)) := by
  unfold storeAtIndex
  rw [h, checked_some]

/-- R59: a store that begins below 0x200. -/
theorem storeAtIndex_protected {bs : List Byte} (hbs : bs.length ≠ 0) (hlow : s.base < progBase) :
    storeAtIndex bs s = .next (s.setRun (.halted (.protectedWrite s.base))) :=
  storeAtIndex_of_check (checkWrite_protected _ _ hbs hlow)

/-- R58: a store from 0x200 on that ends outside the address space. -/
theorem storeAtIndex_outOfRange {bs : List Byte} (hbs : bs.length ≠ 0) (hlow : progBase ≤ s.base)
    (hhigh : memSize < s.base + bs.length) :
    storeAtIndex bs s = .next (s.setRun (.halted (.memoryOutOfRange (max s.base memSize)))) :=
  storeAtIndex_of_check (checkWrite_outOfRange _ _ hbs hlow hhigh)

/-- Settles O44: FX33 stores three bytes and FX55 `x + 1`, each as one store at I. -/
theorem forbiddenStoresHaltAndWriteNothing : Obligations.ForbiddenStoresHaltAndWriteNothing := by
  intro s x
  have hdigits : (bcdDigits (s.getV x)).length = 3 := rfl
  have hregs : (s.firstRegs (rangeCount x)).length = x.toNat + 1 := firstRegs_rangeCount_length s x
  refine ⟨fun hlow => ⟨?_, ?_⟩, fun hlow hhigh => ?_, fun hlow hhigh => ?_⟩
  · exact storeAtIndex_protected (by omega) hlow
  · exact storeAtIndex_protected (by omega) hlow
  · exact storeAtIndex_outOfRange (by omega) hlow (hdigits ▸ hhigh)
  · exact storeAtIndex_outOfRange (by omega) hlow (hregs ▸ hhigh)

/-! ## Stored bytes are fetched at once (R65, R296) -/

/-- R223: the byte FX55 writes at `I + q` is register `q`. -/
theorem readByte_writeBytes_firstRegs (hmem : Memory.wf s.mem) {x q : Reg} (hq : q.toNat ≤ x.toNat) :
    readByte (writeBytes s.mem s.base (s.firstRegs (rangeCount x))) (s.base + q.toNat) = s.getV q := by
  have hlen := firstRegs_rangeCount_length s x
  rw [readByte_writeBytes _ hmem.1, if_pos (by omega), Nat.add_sub_cancel_left]
  exact State.firstRegs_getD s _ q (Nat.lt_succ_of_le hq)

/-- Settles O45: an FX55 that has not halted wrote its registers, and a fetch reads the two bytes written. -/
theorem storedBytesAreFetchedAtOnce : Obligations.StoredBytesAreFetchedAtOnce := by
  intro s t x k j hmem _ h hrun hjk hjx
  obtain ⟨e, -, rfl⟩ | ⟨-, rfl⟩ := storeAtIndex_cases h
  · cases hrun
  · have hhi := readByte_writeBytes_firstRegs hmem (x := x) (q := k) (by omega)
    have hlo := readByte_writeBytes_firstRegs hmem hjx
    rw [hjk, ← Nat.add_assoc] at hlo
    exact congrArg₂ (· ++ ·) hhi hlo

/-! ## Nothing below 0x200 is written (R53, R59) -/

/-- R59: no effect of an instruction reaches a byte below 0x200: a store begins there or above. -/
theorem Effect.readByte_of_lt_progBase (he : Effect s i t) (hmem : Memory.wf s.mem) {a : Nat} (ha : a < progBase) :
    readByte t.mem a = readByte s.mem a := by
  cases he with
  | store bs _ hlow _ => exact (readByte_writeBytes _ hmem.1 _ bs a).trans (if_neg (by omega))
  | _ => rfl

/-- R78, R79, R80: a cycle that changes memory at all executes an instruction. -/
theorem cycle_mem_cases (h : cycle s = .next t) : t.mem = s.mem ∨ ∃ i, exec i s = .next t := by
  by_cases hrun : s.run = .running
  · rw [cycle_running hrun] at h
    obtain ⟨e, -, he⟩ | ⟨-, w, -, hw⟩ | ⟨-, i, -, hi⟩ := runCycle_cases s
    · exact .inl (Host.Outcome.next.inj (he ▸ h) ▸ rfl)
    · exact .inl (Host.Outcome.next.inj (hw ▸ h) ▸ rfl)
    · exact .inr ⟨i, hi ▸ h⟩
  · exact .inl (by rw [Host.Outcome.next.inj ((cycle_idle hrun).symm.trans h)])

/-- Settles O54: a cycle keeps memory or executes an instruction, and no instruction writes below 0x200. -/
theorem noCycleWritesBelow0x200 : Obligations.NoCycleWritesBelow0x200 := by
  intro s t hmem h a ha
  obtain hsame | ⟨i, hi⟩ := cycle_mem_cases h
  · rw [hsame]
  · exact (exec_effect hi).readByte_of_lt_progBase hmem ha

/-! ## Who touches memory (R57) -/

/-- A check over other memory raises or passes as before, if it and its body do not touch memory. -/
theorem checked_setMem {c : Option FatalError} {body : State} (m : Memory) (h : checked c s body = .next t) :
    checked c (s.setMem m) (body.setMem m) = .next (t.setMem m) := by
  obtain ⟨e, rfl, rfl⟩ | ⟨rfl, rfl⟩ := checked_cases h
  · rfl
  · rfl

/-- R100: RET works on the stack alone. -/
theorem execRet_setMem (m : Memory) (h : execRet s = .next t) : execRet (s.setMem m) = .next (t.setMem m) := by
  unfold execRet at h ⊢
  rw [State.setMem_stack]
  split at h <;> obtain rfl := Host.Outcome.next.inj h <;> rfl

/-- Settles O57: what such an instruction checks and does commutes with replacing memory. -/
theorem otherInstructionsDoNotTouchMemory : Obligations.OtherInstructionsDoNotTouchMemory := by
  intro i s t m htouch h
  cases i with
  | drw | ldB | stRange | ldRange => cases htouch
  | ret => exact execRet_setMem m h
  | call | skp | sknp | ldF => exact checked_setMem m h
  | _ => exact Host.Outcome.next.inj h ▸ rfl

end Sys2Proof.Machine
end

section
/-! PROOFS. The encoding (30_encoding.md): decoding undoes encoding, and what a decoding is worth in either outcome, said
once (`decode_faithful`); the illegal words and the opcode map follow from it. Then the cycle: what it does where it may
not fetch, at an illegal word, at an instruction, while awaiting a key, and once halted. -/

namespace Sys2Proof
open Machine

variable {w : Word}

/-! ## Decode of encode (R71, R73, R81) -/

/-- R81: the decoder gives every instruction back from its word; format by format. -/
theorem decode_encode (i : Instr) : decode (encode i) = .instr i := by
  cases i with
  | cls | ret => rfl
  | jp | call | ldI | jpV0 => simp [decode, encode, opField_formatNNN, nnnField_formatNNN]
  | seImm | sneImm | ldImm | addImm | rnd =>
    simp [decode, encode, opField_formatXNN, xField_formatXNN, nnField_formatXNN]
  | seReg | sneReg | drw =>
    simp [decode, encode, opField_formatXYN, xField_formatXYN, yField_formatXYN, nField_formatXYN]
  | ldReg | orReg | andReg | xorReg | addReg | subReg | shr | subnReg | shl =>
    simp [decode, decodeFamily8, encode, opField_formatXYN, xField_formatXYN, yField_formatXYN, nField_formatXYN]
  | skp | sknp => simp [decode, decodeFamilyE, encode, opField_formatXNN, xField_formatXNN, nnField_formatXNN]
  | ldDT | ldK | setDT | setST | addI | ldF | ldB | stRange | ldRange =>
    simp [decode, decodeFamilyF, encode, opField_formatXNN, xField_formatXNN, nnField_formatXNN]

/-- R55, R70: the two bytes of a word decode as the word does, and the bytes after them are left. -/
theorem decodeBytes_bytesOfWord (w : Word) (rest : List Byte) :
    decodeBytes (bytesOfWord w ++ rest) = .first (decode w) rest :=
  congrArg (fun u => DecodedBytes.first (decode u) rest) (wordOfBytes_bytes w)

/-- Settles O2: from the word by `decode_encode`, and from its two bytes because they are read back as the word. -/
theorem decodingAnEncodedInstructionGivesItBack : Obligations.DecodingAnEncodedInstructionGivesItBack := by
  intro i rest _
  exact ⟨decode_encode i, by rw [decodeBytes_bytesOfWord, decode_encode]⟩

/-! ## What a decoding is worth (R74, R75) -/

/-- A decoding tells the truth about its word: an instruction is one that assembles to the word (R74), and UnknownOpcode
reports a word that R75 lists, whole. -/
def Decoded.FaithfulTo (w : Word) : Decoded → Prop
  | .instr i => encode i = w
  | .unknownOpcode u => u = w ∧ illegalByFamily w

/-- R71: a word of leading nibble `op` in format NNN. -/
theorem formatNNN_of_op {op : Nibble} (hop : opField w = op) : formatNNN op (nnnField w) = w :=
  hop ▸ formatNNN_fields w

/-- R71: in format XNN. -/
theorem formatXNN_of_op {op : Nibble} (hop : opField w = op) : formatXNN op (xField w) (nnField w) = w :=
  hop ▸ formatXNN_fields w

/-- R71: in format XYN. -/
theorem formatXYN_of_op {op : Nibble} (hop : opField w = op) : formatXYN op (xField w) (yField w) (nField w) = w :=
  hop ▸ formatXYN_fields w

/-- R71: in format X, where the low byte is fixed. -/
theorem formatXNN_of_op_nn {op : Nibble} {nn : Byte} (hop : opField w = op) (hnn : nnField w = nn) :
    formatXNN op (xField w) nn = w :=
  hnn ▸ formatXNN_of_op hop

/-- R71: in format XY, where the low nibble is fixed. -/
theorem formatXYN_of_op_n {op n : Nibble} (hop : opField w = op) (hn : nField w = n) :
    formatXYN op (xField w) (yField w) n = w :=
  hn ▸ formatXYN_of_op hop

/-- R76, R81: leading nibble 0. -/
theorem decodeFamily0_faithful (hop : opField w = 0x0#4) : (decodeFamily0 w).FaithfulTo w := by
  unfold decodeFamily0
  split_ifs with hcls hret
  · exact hcls.symm
  · exact hret.symm
  · exact ⟨rfl, .inl ⟨hop, hcls, hret⟩⟩

/-- R81: leading nibble 5 or 9, where the low nibble must be 0. -/
theorem decodeXY0_faithful {i : Instr} (hop : opField w = 0x5#4 ∨ opField w = 0x9#4)
    (hi : nField w = 0#4 → encode i = w) :
    (if nField w = 0#4 then .instr i else .unknownOpcode w : Decoded).FaithfulTo w := by
  split_ifs with hn
  · exact hi hn
  · exact ⟨rfl, .inr (.inl ⟨hop, hn⟩)⟩

/-- R81: leading nibble 8. -/
theorem decodeFamily8_faithful (hop : opField w = 0x8#4) : (decodeFamily8 w).FaithfulTo w := by
  unfold decodeFamily8
  have legal : ∀ {n : Nibble}, (nField w).toNat = n.toNat → formatXYN 0x8#4 (xField w) (yField w) n = w :=
    fun hn => formatXYN_of_op_n hop (BitVec.eq_of_toNat_eq hn)
  split
  case h_10 =>
    refine ⟨rfl, .inr (.inr (.inl ⟨hop, ?_⟩))⟩
    have hlt : (nField w).toNat < 16 := (nField w).isLt
    simp only [List.mem_cons, List.not_mem_nil, or_false, ← BitVec.toNat_inj, BitVec.toNat_ofNat, imp_false] at *
    omega
  all_goals exact legal ‹_›

/-- R81: leading nibble E. -/
theorem decodeFamilyE_faithful (hop : opField w = 0xE#4) : (decodeFamilyE w).FaithfulTo w := by
  unfold decodeFamilyE
  split_ifs with hskp hsknp
  · exact formatXNN_of_op_nn hop hskp
  · exact formatXNN_of_op_nn hop hsknp
  · exact ⟨rfl, .inr (.inr (.inr (.inl ⟨hop, by simp [hskp, hsknp]⟩)))⟩

/-- R81: leading nibble F. -/
theorem decodeFamilyF_faithful (hop : opField w = 0xF#4) : (decodeFamilyF w).FaithfulTo w := by
  unfold decodeFamilyF
  split_ifs
  case neg => exact ⟨rfl, .inr (.inr (.inr (.inr ⟨hop, by simp [*]⟩)))⟩
  all_goals exact formatXNN_of_op_nn hop ‹_›

/-- R74, R75: every decoding is faithful; by leading nibble. -/
theorem decode_faithful (w : Word) : (decode w).FaithfulTo w := by
  unfold decode
  have op : ∀ {n : Nibble}, (opField w).toNat = n.toNat → opField w = n := BitVec.eq_of_toNat_eq
  split
  · next h => exact decodeFamily0_faithful (op h)
  · next h => exact formatNNN_of_op (op h)
  · next h => exact formatNNN_of_op (op h)
  · next h => exact formatXNN_of_op (op h)
  · next h => exact formatXNN_of_op (op h)
  · next h => exact decodeXY0_faithful (.inl (op h)) (formatXYN_of_op_n (op h))
  · next h => exact formatXNN_of_op (op h)
  · next h => exact formatXNN_of_op (op h)
  · next h => exact decodeFamily8_faithful (op h)
  · next h => exact decodeXY0_faithful (.inr (op h)) (formatXYN_of_op_n (op h))
  · next h => exact formatNNN_of_op (op h)
  · next h => exact formatNNN_of_op (op h)
  · next h => exact formatXNN_of_op (op h)
  · next h => exact formatXYN_of_op (op h)
  · next h => exact decodeFamilyE_faithful (op h)
  · refine decodeFamilyF_faithful (op ?_)
    have hlt : (opField w).toNat < 16 := (opField w).isLt
    simp only [BitVec.toNat_ofNat, imp_false] at *
    omega

/-- R74: a word that decodes is its instruction's word. -/
theorem encode_of_decode {i : Instr} (h : decode w = .instr i) : encode i = w :=
  (h ▸ decode_faithful w : (Decoded.instr i).FaithfulTo w)

/-- R75: one that does not is reported whole, and is one R75 lists. -/
theorem illegal_of_decode {u : Word} (h : decode w = .unknownOpcode u) : u = w ∧ illegalByFamily w :=
  (h ▸ decode_faithful w : (Decoded.unknownOpcode u).FaithfulTo w)

/-- Settles O3: both outcomes of a decoding are faithful to the word. -/
theorem encodingADecodedWordGivesItBack : Obligations.EncodingADecodedWordGivesItBack := fun _ =>
  ⟨fun _ h => encode_of_decode h, fun _ h => (illegal_of_decode h).1⟩

/-! ## Illegal words and the opcode map (R73, R75) -/

/-- R73: where a row's mask covers a field of the word, the word has the row's value in that field. -/
theorem OpcodeRow.extract_eq_of_holds {r : OpcodeRow} (h : r.holds w = true) {start len : Nat}
    (hmask : r.mask.extractLsb' start len = BitVec.allOnes len) :
    w.extractLsb' start len = r.value.extractLsb' start len := by
  have hw : w &&& r.mask = r.value := eq_of_beq h
  rw [← hw, BitVec.extractLsb'_and, hmask, BitVec.and_allOnes]

/-- R73: every row fixes the leading nibble. -/
theorem opcodeMap_op : ∀ r ∈ opcodeMap, opField r.mask = 0xF#4 := by decide

/-- R73: with leading nibble 0 a row fixes every bit. -/
theorem opcodeMap_family0 : ∀ r ∈ opcodeMap, opField r.value = 0x0#4 →
    r.mask = 0xFFFF#16 ∧ (r.value = 0x00E0#16 ∨ r.value = 0x00EE#16) := by decide

/-- R73: with leading nibble 5 or 9 it fixes the low nibble at 0. -/
theorem opcodeMap_family59 : ∀ r ∈ opcodeMap, opField r.value = 0x5#4 ∨ opField r.value = 0x9#4 →
    nField r.mask = 0xF#4 ∧ nField r.value = 0#4 := by decide

/-- R73: with leading nibble 8 it fixes the low nibble at one that has an operation. -/
theorem opcodeMap_family8 : ∀ r ∈ opcodeMap, opField r.value = 0x8#4 →
    nField r.mask = 0xF#4 ∧ nField r.value ∉ [0x8#4, 0x9#4, 0xA#4, 0xB#4, 0xC#4, 0xD#4, 0xF#4] := by decide

/-- R73: with leading nibble E it fixes the low byte. -/
theorem opcodeMap_familyE : ∀ r ∈ opcodeMap, opField r.value = 0xE#4 →
    nnField r.mask = 0xFF#8 ∧ nnField r.value ∈ [0x9E#8, 0xA1#8] := by decide

/-- R73: and so with leading nibble F. -/
theorem opcodeMap_familyF : ∀ r ∈ opcodeMap, opField r.value = 0xF#4 → nnField r.mask = 0xFF#8 ∧
    nnField r.value ∈ [0x07#8, 0x0A#8, 0x15#8, 0x18#8, 0x1E#8, 0x29#8, 0x33#8, 0x55#8, 0x65#8] := by decide

/-- R75: no word R75 lists matches a row: the fields that make it illegal are fixed by every row of its leading nibble. -/
theorem not_illegal_of_holds {r : OpcodeRow} (hr : r ∈ opcodeMap) (h : r.holds w = true) : ¬illegalByFamily w := by
  have hop : opField w = opField r.value := r.extract_eq_of_holds h (opcodeMap_op r hr)
  have hn : nField r.mask = 0xF#4 → nField w = nField r.value := r.extract_eq_of_holds h
  have hnn : nnField r.mask = 0xFF#8 → nnField w = nnField r.value := r.extract_eq_of_holds h
  unfold illegalByFamily
  rw [hop]
  rintro (⟨ho, hcls, hret⟩ | ⟨ho, hbad⟩ | ⟨ho, hbad⟩ | ⟨ho, hbad⟩ | ⟨ho, hbad⟩)
  · obtain ⟨hmask, hvalue⟩ := opcodeMap_family0 r hr ho
    have hw : w &&& r.mask = r.value := eq_of_beq h
    rw [hmask, show 0xFFFF#16 = BitVec.allOnes 16 from rfl, BitVec.and_allOnes] at hw
    exact hvalue.elim (hcls <| hw.trans ·) (hret <| hw.trans ·)
  · obtain ⟨hmask, hvalue⟩ := opcodeMap_family59 r hr ho
    exact hbad ((hn hmask).trans hvalue)
  · obtain ⟨hmask, hvalue⟩ := opcodeMap_family8 r hr ho
    exact hvalue (hn hmask ▸ hbad)
  · obtain ⟨hmask, hvalue⟩ := opcodeMap_familyE r hr ho
    exact hbad (hnn hmask ▸ hvalue)
  · obtain ⟨hmask, hvalue⟩ := opcodeMap_familyF r hr ho
    exact hbad (hnn hmask ▸ hvalue)

/-- R75: a legal word is not one R75 lists. -/
theorem not_illegal_of_legalWord (h : legalWord w = true) : ¬illegalByFamily w := by
  obtain ⟨r, hr, hrow⟩ := List.any_eq_true.1 h
  exact not_illegal_of_holds hr hrow

/-- R77: every instruction is well-formed, for every operand. -/
theorem Instr.wellFormed_eq_true (i : Instr) : i.wellFormed = true :=
  match i with
  | .cls => Laws.LegalWord.cls
  | .ret => Laws.LegalWord.ret
  | .jp nnn => Laws.LegalWord.jp nnn
  | .call nnn => Laws.LegalWord.call nnn
  | .seImm x nn => Laws.LegalWord.seImm x nn
  | .sneImm x nn => Laws.LegalWord.sneImm x nn
  | .seReg x y => Laws.LegalWord.seReg x y
  | .ldImm x nn => Laws.LegalWord.ldImm x nn
  | .addImm x nn => Laws.LegalWord.addImm x nn
  | .ldReg x y => Laws.LegalWord.ldReg x y
  | .orReg x y => Laws.LegalWord.orReg x y
  | .andReg x y => Laws.LegalWord.andReg x y
  | .xorReg x y => Laws.LegalWord.xorReg x y
  | .addReg x y => Laws.LegalWord.addReg x y
  | .subReg x y => Laws.LegalWord.subReg x y
  | .shr x y => Laws.LegalWord.shr x y
  | .subnReg x y => Laws.LegalWord.subnReg x y
  | .shl x y => Laws.LegalWord.shl x y
  | .sneReg x y => Laws.LegalWord.sneReg x y
  | .ldI nnn => Laws.LegalWord.ldI nnn
  | .jpV0 nnn => Laws.LegalWord.jpV0 nnn
  | .rnd x nn => Laws.LegalWord.rnd x nn
  | .drw x y n => Laws.LegalWord.drw x y n
  | .skp x => Laws.LegalWord.skp x
  | .sknp x => Laws.LegalWord.sknp x
  | .ldDT x => Laws.LegalWord.ldDT x
  | .ldK x => Laws.LegalWord.ldK x
  | .setDT x => Laws.LegalWord.setDT x
  | .setST x => Laws.LegalWord.setST x
  | .addI x => Laws.LegalWord.addI x
  | .ldF x => Laws.LegalWord.ldF x
  | .ldB x => Laws.LegalWord.ldB x
  | .stRange x => Laws.LegalWord.stRange x
  | .ldRange x => Laws.LegalWord.ldRange x

/-- R75: a word that decodes is legal, being the word of a well-formed instruction. -/
theorem legalWord_of_decode {i : Instr} (h : decode w = .instr i) : legalWord w = true :=
  encode_of_decode h ▸ i.wellFormed_eq_true

/-- R75: a word R75 lists does not decode. -/
theorem decode_of_illegal (h : illegalByFamily w) : decode w = .unknownOpcode w := by
  cases hd : decode w with
  | instr i => exact absurd h (not_illegal_of_legalWord (legalWord_of_decode hd))
  | unknownOpcode u => rw [(illegal_of_decode hd).1]

/-- R75: a legal word decodes, for it is none that R75 lists. -/
theorem exists_decode_of_legalWord (h : legalWord w = true) : ∃ i, decode w = .instr i := by
  cases hd : decode w with
  | instr i => exact ⟨i, rfl⟩
  | unknownOpcode u => exact absurd (illegal_of_decode hd).2 (not_illegal_of_legalWord h)

/-- Settles O4: a refusal is faithful, and a listed word matches no row, so it is no instruction's. -/
theorem illegalWordsAreExactlyTheListedOnes : Obligations.IllegalWordsAreExactlyTheListedOnes := fun _ =>
  ⟨fun h => (illegal_of_decode h).2, decode_of_illegal⟩

/-- R73: no two rows agree on the bits that both of them fix. -/
theorem opcodeMap_disjoint : ∀ r ∈ opcodeMap, ∀ q ∈ opcodeMap, r.value &&& q.mask = q.value &&& r.mask → r = q := by
  decide

/-- R73: two rows that match one word agree on the bits that both of them fix. -/
theorem OpcodeRow.agree_of_holds {r q : OpcodeRow} (hr : r.holds w = true) (hq : q.holds w = true) :
    r.value &&& q.mask = q.value &&& r.mask := by
  have hrw : w &&& r.mask = r.value := eq_of_beq hr
  have hqw : w &&& q.mask = q.value := eq_of_beq hq
  rw [← hrw, ← hqw, BitVec.and_assoc, BitVec.and_assoc, BitVec.and_comm r.mask]

/-- Settles O5: decoding is being legal, and rows that match one word agree where no two different rows do. -/
theorem decoderAgreesWithTheOpcodeMap : Obligations.DecoderAgreesWithTheOpcodeMap := fun _ =>
  ⟨⟨fun ⟨_, h⟩ => legalWord_of_decode h, exists_decode_of_legalWord⟩,
    fun r hr q hq hrw hqw => opcodeMap_disjoint r hr q hq (OpcodeRow.agree_of_holds hrw hqw)⟩

/-- Settles O1: the twelve decodings, computed. -/
theorem specWordsDecodeToTheirInstructions : Obligations.SpecWordsDecodeToTheirInstructions := by
  unfold Obligations.SpecWordsDecodeToTheirInstructions
  decide

end Sys2Proof

namespace Sys2Proof.Machine

variable {s t : State} {e : FatalError}

/-! ## What a cycle returns (R78, R80, R243) -/

/-- R243: the reply to `cycle()` is read from the state it leaves. -/
theorem replyTo_cycle (h : cycle s = .next t) : replyTo .cycle s = cycleReply t := by
  simp only [replyTo, h]

/-- R80, R243: a cycle that leaves the core halted returns the error. -/
theorem replyTo_cycle_halted (h : cycle s = .next t) (ht : t.run = .halted e) : replyTo .cycle s = .err e := by
  simp only [replyTo_cycle h, cycleReply, ht]

/-- R243, R244: a running cycle that raises halts with the error, changes nothing else and returns it. -/
theorem cycle_of_raise (hrun : s.run = .running) (h : runCycle s = raise e s) :
    cycle s = .next { s with run := .halted e } ∧ replyTo .cycle s = .err e := by
  have hc : cycle s = .next { s with run := .halted e } := (cycle_running hrun).trans h
  exact ⟨hc, replyTo_cycle_halted hc rfl⟩

/-! ## The running cycle (R60, R75, R78) -/

/-- R60, R78: no fetch is possible. -/
theorem runCycle_of_fetchFault (h : fetchFault s.pc = some e) : runCycle s = raise e s := by
  simp only [runCycle, h]

/-- R75, R78: the fetched word does not decode. -/
theorem runCycle_of_unknownOpcode {w : Word} (hpc : fetchFault s.pc = none)
    (h : decode (fetch16 s.mem s.pc.toNat) = .unknownOpcode w) : runCycle s = raise (.unknownOpcode w) s := by
  simp only [runCycle, hpc, h]

/-- R78: a state that can fetch passes the check of `pc`. -/
theorem State.canFetch.fetchFault_eq_none (h : s.canFetch) : fetchFault s.pc = none :=
  (Machine.fetchFault_eq_none s.pc).2 h.2

/-- R78: where the fetched word decodes, a cycle is the execution of its instruction. -/
theorem cycle_instr {i : Instr} (h : s.canFetch) (hi : decode (fetch16 s.mem s.pc.toNat) = .instr i) :
    cycle s = exec i s :=
  (cycle_running h.1).trans (runCycle_instr h.fetchFault_eq_none hi)

/-- Settles O8: a listed word does not decode, so the cycle raises after the fetch. -/
theorem fetchingAnIllegalWordHalts : Obligations.FetchingAnIllegalWordHalts := fun _ hs hw =>
  cycle_of_raise hs.1 (runCycle_of_unknownOpcode hs.fetchFault_eq_none (decode_of_illegal hw))

/-- Settles O6: a step is the scheduled cycle or, with nothing scheduled, a cycle; the schedule is not fetched from. -/
theorem stepRunsTheDecodedInstruction : Obligations.StepRunsTheDecodedInstruction := by
  intro s i hs _ hi
  refine ⟨fun hnil => ?_, fun rest hcons => ?_⟩
  · exact (step_nil hnil).trans (cycle_instr hs hi)
  · have hs' : (s.setCalls rest).canFetch := hs
    exact (step_cons hcons).trans (cycle_instr hs' hi)

/-- Settles O7: the check of `pc` fails, so the cycle raises at the fetch. -/
theorem fetchOutsideTheEvenAddressesHalts : Obligations.FetchOutsideTheEvenAddressesHalts := by
  intro s hrun hpc
  have hbad : ¬(s.pc.toNat % 2 = 0 ∧ s.pc.toNat ≤ 0xFFE) := by omega
  exact cycle_of_raise hrun (runCycle_of_fetchFault (fetchFault_eq_some s.pc hbad))

/-! ## The idle cycle (R79, R80, R245) -/

/-- Settles O10: the cycle is idle, and R32's list (O53) leaves no other way out of the halted state. -/
theorem haltedStateIsLeftOnlyByResetOrLoad : Obligations.HaltedStateIsLeftOnlyByResetOrLoad := by
  intro s e hs
  have hc : cycle s = .next s := cycle_idle (by simp [hs])
  refine ⟨hc, replyTo_cycle_halted hc hs, fun c t hreset hload h => ?_⟩
  obtain hsame | ⟨-, hrun, -⟩ | ⟨_, _, -, hwait, -⟩ | ⟨rfl | ⟨bytes, rfl, -⟩, -⟩ := runStateChangesOnlyAsListed s t c h
  · exact hsame.trans hs
  · cases hs.symm.trans hrun
  · cases hs.symm.trans hwait
  · exact absurd rfl hreset
  · exact absurd rfl (hload bytes)

/-- Settles O9: the cycle is idle and leaves the core awaiting its key, which is no error. -/
theorem cycleWhileAwaitingAKeyDoesNothing : Obligations.CycleWhileAwaitingAKeyDoesNothing := by
  intro s x hs
  have hc : cycle s = .next s := cycle_idle (by simp [hs])
  exact ⟨hc, by simp only [replyTo_cycle hc, cycleReply, hs]⟩

end Sys2Proof.Machine
end

section
/-! PROOFS. Control transfer (41_control_flow.md): the return, the jumps, the call and the skips, each by what its one
operation does to the state; and the jump to itself, which is a fixed point of every step. The encodings are
`decode_encode` and `decode_of_illegal`, read at the word written out from the pattern. -/

namespace Sys2Proof.Machine

variable {s : State} {nnn : Addr12}

/-! ## The jump to itself (R101, R275, D36) -/

/-- In any machine, a state that a step leaves as it is stays for any number of steps. -/
theorem run_of_step_eq_self (M : Host.Core) {s : M.State} (h : M.step s = .next s) (k : Nat) :
    M.run k s = .next s := by
  induction k with
  | zero => rfl
  | succ k ih => simp only [Host.Core.run, h, ih]

/-- R101: a jump to where `pc` stands changes nothing. -/
theorem exec_jp_self (h : zext16 nnn = s.pc) : exec (.jp nnn) s = .next s :=
  congrArg (fun w => Host.Outcome.next (s.setPc w)) h

/-- R78, R275: with nothing scheduled a running step at a jump to itself leaves the whole state as it is. -/
theorem step_atSelfJump (hrun : s.run = .running) (hcalls : s.calls = []) (hs : s.atSelfJump) : step s = .next s := by
  obtain ⟨hfetch, nnn, hjp, hpc⟩ := hs
  calc step s = cycle s := step_nil hcalls
    _ = runCycle s := cycle_running hrun
    _ = exec (.jp nnn) s := runCycle_instr hfetch hjp
    _ = .next s := exec_jp_self hpc

/-- Settles O59: one step leaves the state as it is, and so does any number of them. -/
theorem selfJumpIsAFixedPoint : Obligations.SelfJumpIsAFixedPoint := fun _ k hrun hcalls hs =>
  run_of_step_eq_self core (step_atSelfJump hrun hcalls hs) k

/-! ## Return and call (R100, R102) -/

/-- R100: a stack with a last entry is popped into `pc`. -/
theorem execRet_of_append {l : List Word} {a : Word} (h : s.stack = l ++ [a]) :
    execRet s = .next ((s.setStack l).setPc a) := by
  simp only [execRet, h, List.getLast?_concat, List.dropLast_concat]

/-- R100: at depth 0 there is nothing to pop. -/
theorem execRet_of_nil (h : s.stack = []) : execRet s = raise .stackUnderflow s := by
  simp only [execRet, h, List.getLast?_nil]

/-- Settles O14: the two cases of the stack, empty or with a last entry. -/
theorem returnPopsTheStackIntoPc : Obligations.ReturnPopsTheStackIntoPc :=
  ⟨decode_encode .ret, fun _ _ _ h => execRet_of_append h, fun _ h => execRet_of_nil h⟩

/-- R102: below depth 16 the check of the call passes. -/
theorem execCall_of_depth_lt (h : s.depth < 16) : execCall nnn s = .next ((s.push s.nextPc).setPc (zext16 nnn)) := by
  rw [execCall, if_neg (Nat.not_le.2 h), checked_none]

/-- R102: from depth 16 on it raises. -/
theorem execCall_of_depth_ge (h : 16 ≤ s.depth) : execCall nnn s = raise .stackOverflow s := by
  rw [execCall, if_pos h, checked_some, raise]

/-- Settles O16: the two cases of the depth; at depth 16 the check already fails. -/
theorem callPushesTheReturnAddress : Obligations.CallPushesTheReturnAddress := fun _ nnn =>
  ⟨decode_encode (.call nnn), execCall_of_depth_lt, fun h => execCall_of_depth_ge h.ge⟩

/-! ## Jumps (R101, R107) -/

/-- Settles O15: the arm of `exec` is the move of `pc` itself. -/
theorem jumpSetsPc : Obligations.JumpSetsPc := fun _ nnn => ⟨decode_encode (.jp nnn), rfl⟩

/-- R107: `nnn + V0` is at most 0x10FE, so 16 bits hold the sum as it is. -/
theorem offsetTarget_toNat (nnn : Addr12) (v0 : Byte) : (offsetTarget nnn v0).toNat = nnn.toNat + v0.toNat := by
  rw [offsetTarget, BitVec.toNat_ofNat]
  omega

/-- R24: moving `pc` changes nothing else. -/
theorem keepsBesidesPc_setPc (s : State) (w : Word) : KeepsBesidesPc s (s.setPc w) :=
  ⟨fun _ => rfl, rfl, fun _ => rfl, rfl, ⟨rfl, rfl, rfl⟩, ⟨rfl, rfl⟩, rfl, rfl⟩

/-- Settles O19: the sum fits in 16 bits, and only `pc` is moved. -/
theorem jumpWithOffsetIsNotReduced : Obligations.JumpWithOffsetIsNotReduced := fun s nnn =>
  ⟨decode_encode (.jpV0 nnn), _, rfl, offsetTarget_toNat nnn (s.getV 0#4), keepsBesidesPc_setPc s _⟩

/-! ## Skips (R103 to R106) -/

/-- R24: a skip under a condition goes to `pc + 4` or `pc + 2` and changes nothing else. -/
theorem skipIf_eq {taken : Bool} {p : Prop} [Decidable p] (s : State) (h : taken = true ↔ p) :
    s.skipIf taken = { s with pc := if p then s.pc + 4#16 else s.pc + 2#16 } := by
  have htwice : s.nextPc + 2#16 = s.pc + 4#16 := BitVec.add_assoc s.pc 2#16 2#16
  unfold State.skipIf
  simp only [h, htwice]
  rfl

/-- Settles O17: the condition of each skip, on `V[x]` and the byte. -/
theorem skipsOnAByte : Obligations.SkipsOnAByte := fun s x nn =>
  ⟨decode_encode (.seImm x nn), decode_encode (.sneImm x nn), congrArg _ (skipIf_eq s beq_iff_eq),
    congrArg _ (skipIf_eq s bne_iff_ne)⟩

/-- R75, R105, R106: with leading nibble 5 or 9 a low nibble other than 0 is illegal. -/
theorem decode_formatXYN_of_ne {op n : Nibble} (hop : op = 0x5#4 ∨ op = 0x9#4) (x y : Reg) (hn : n ≠ 0#4) :
    decode (formatXYN op x y n) = .unknownOpcode (formatXYN op x y n) := by
  refine decode_of_illegal (.inr (.inl ⟨?_, ?_⟩))
  · rwa [opField_formatXYN]
  · rwa [nField_formatXYN]

/-- Settles O18: the condition of each skip, on the two registers; the other low nibbles are words R75 lists. -/
theorem skipsOnTwoRegisters : Obligations.SkipsOnTwoRegisters := fun s x y =>
  ⟨decode_encode (.seReg x y), decode_encode (.sneReg x y),
    fun _ hn => ⟨decode_formatXYN_of_ne (.inl rfl) x y hn, decode_formatXYN_of_ne (.inr rfl) x y hn⟩,
    congrArg _ (skipIf_eq s beq_iff_eq), congrArg _ (skipIf_eq s bne_iff_ne)⟩

end Sys2Proof.Machine
end

section
/-! PROOFS. Registers and arithmetic (42_alu.md): what the two ways of writing back leave, a result alone (R131 to R136,
R142) or a result and then a flag (R130); what the flags and the results are as numbers; and each instruction from these.
The encodings are `decode_encode`, read at the word written out from the pattern. -/

namespace Sys2Proof.Machine

/-! ## A result alone (R131 to R136, R142) -/

/-- R131: the destination holds the result. -/
theorem State.getV_writeReg_self (s : State) (x : Reg) (b : Byte) : (s.writeReg x b).getV x = b :=
  (State.getV_setV s x x b).trans (if_pos rfl)

/-- R131 to R136: every other register, VF among them, is kept; `pc` advances, and nothing else changes. -/
theorem State.writeReg_frame (s : State) (x : Reg) (b : Byte) :
    KeepsRegsBut x s (s.writeReg x b) ∧ (s.writeReg x b).pc = s.pc + 2#16 ∧ KeepsBesidesRegs s (s.writeReg x b) :=
  ⟨fun r hr => (State.getV_setV s x r b).trans (if_neg hr), rfl,
    rfl, fun _ => rfl, rfl, ⟨rfl, rfl, rfl⟩, ⟨rfl, rfl⟩, rfl, rfl⟩

/-- Settles O20: the result is the byte, or the other register. -/
theorem loadAndCopyWriteOneRegister : Obligations.LoadAndCopyWriteOneRegister := fun s x y nn =>
  ⟨decode_encode (.ldImm x nn), decode_encode (.ldReg x y),
    ⟨_, rfl, s.getV_writeReg_self x nn, s.writeReg_frame x nn⟩,
    ⟨_, rfl, s.getV_writeReg_self x (s.getV y), s.writeReg_frame x _⟩⟩

/-- Settles O21: a sum of bytes is the sum modulo 256. -/
theorem addByteWrapsWithoutAFlag : Obligations.AddByteWrapsWithoutAFlag := fun s x nn =>
  ⟨decode_encode (.addImm x nn), _, rfl, by rw [State.getV_writeReg_self, BitVec.toNat_add], s.writeReg_frame x _⟩

/-- Settles O22: each operation on bytes is the one on their bits. -/
theorem bitwiseOperationsTouchNoFlag : Obligations.BitwiseOperationsTouchNoFlag := fun s x y =>
  ⟨decode_encode (.orReg x y), decode_encode (.andReg x y), decode_encode (.xorReg x y),
    ⟨_, rfl, fun _ => by rw [State.getV_writeReg_self, BitVec.getLsbD_or], s.writeReg_frame x _⟩,
    ⟨_, rfl, fun _ => by rw [State.getV_writeReg_self, BitVec.getLsbD_and], s.writeReg_frame x _⟩,
    ⟨_, rfl, fun _ => by rw [State.getV_writeReg_self, BitVec.getLsbD_xor], s.writeReg_frame x _⟩⟩

/-- Settles O28: the draw is counted first, and the masked byte written to a state that differs in the count alone. -/
theorem randomIsMaskedAndDrawnAnew : Obligations.RandomIsMaskedAndDrawnAnew := by
  intro s x nn
  obtain ⟨hregs, hpc, hindex, hmem, hfb, htimers, hstack, hdraws, hcalls⟩ :=
    (s.setDraws (s.draws + 1)).writeReg_frame x (Config.drawByte s.draws &&& nn)
  refine ⟨decode_encode (.rnd x nn), _, rfl, fun _ => ?_, hregs, hpc, hdraws, hcalls, hindex, hmem, hfb, htimers, hstack⟩
  rw [State.getV_writeReg_self, BitVec.getLsbD_and]

/-! ## A result and then a flag (R130, R143) -/

/-- R130: the destination holds the result unless it is VF, which the flag has overwritten. -/
theorem State.getV_writeWithFlag_dest (s : State) {x : Reg} (hx : x ≠ VF) (result flag : Byte) :
    (s.writeWithFlag x result flag).getV x = result := by
  rw [State.getV_writeWithFlag, if_neg hx, if_pos rfl]

/-- R130: VF holds the flag, whatever the destination. -/
theorem State.getV_writeWithFlag_VF (s : State) (x : Reg) (result flag : Byte) :
    (s.writeWithFlag x result flag).getV VF = flag := by
  rw [State.getV_writeWithFlag, if_pos rfl]

/-- R130: the registers other than the destination and VF are kept; `pc` advances, and nothing else changes. -/
theorem State.writeWithFlag_frame (s : State) (x : Reg) (result flag : Byte) :
    (∀ r, r ≠ x → r ≠ VF → (s.writeWithFlag x result flag).getV r = s.getV r) ∧
      (s.writeWithFlag x result flag).pc = s.pc + 2#16 ∧ KeepsBesidesRegs s (s.writeWithFlag x result flag) := by
  refine ⟨fun r hx hVF => ?_, rfl, rfl, fun _ => rfl, rfl, ⟨rfl, rfl, rfl⟩, ⟨rfl, rfl⟩, rfl, rfl⟩
  rw [State.getV_writeWithFlag, if_neg hVF, if_neg hx]

/-- R137, R138: a flag that says whether a proposition holds. -/
theorem flagByte_decide (p : Prop) [Decidable p] : flagByte (decide p) = if p then 1#8 else 0#8 := by
  simp only [flagByte, decide_eq_true_eq]

/-- Settles O23: a sum of bytes is the sum modulo 256, and the carry is computed on the sum itself. -/
theorem addRegistersSetsCarry : Obligations.AddRegistersSetsCarry := fun s x y =>
  ⟨decode_encode (.addReg x y), _, rfl,
    fun hx => by rw [s.getV_writeWithFlag_dest hx, BitVec.toNat_add],
    by rw [State.getV_writeWithFlag_VF, carryFlag, flagByte_decide],
    s.writeWithFlag_frame x _ _⟩

/-! ## Differences (R138, R140) -/

/-- R138: a difference of bytes is the difference of the numbers, modulo 256. -/
theorem toNat_sub_eq_emod (a b : Byte) : ((a - b).toNat : Int) = ((a.toNat : Int) - b.toNat) % 256 := by
  rw [BitVec.toNat_sub]
  omega

/-- R138, R140: what writing back a difference and its no-borrow leaves. -/
theorem writeWithFlag_sub (s : State) (x : Reg) (a b : Byte) {t : State}
    (ht : t = s.writeWithFlag x (a - b) (noBorrowFlag a b)) :
    (x ≠ VF → ((t.getV x).toNat : Int) = ((a.toNat : Int) - b.toNat) % 256) ∧
      t.getV VF = (if a.toNat ≥ b.toNat then 1#8 else 0#8) ∧
      (∀ r, r ≠ x → r ≠ VF → t.getV r = s.getV r) ∧ t.pc = s.pc + 2#16 ∧ KeepsBesidesRegs s t := by
  subst ht
  refine ⟨fun hx => ?_, ?_, s.writeWithFlag_frame x _ _⟩
  · rw [s.getV_writeWithFlag_dest hx, toNat_sub_eq_emod]
  · rw [State.getV_writeWithFlag_VF, noBorrowFlag, flagByte_decide]

/-- Settles O24: the difference Vx − Vy. -/
theorem subtractSetsNoBorrow : Obligations.SubtractSetsNoBorrow := fun s x y =>
  ⟨decode_encode (.subReg x y), _, rfl, writeWithFlag_sub s x (s.getV x) (s.getV y) rfl⟩

/-- Settles O25: the difference Vy − Vx. -/
theorem reverseSubtractSetsNoBorrow : Obligations.ReverseSubtractSetsNoBorrow := fun s x y =>
  ⟨decode_encode (.subnReg x y), _, rfl, writeWithFlag_sub s x (s.getV y) (s.getV x) rfl⟩

/-! ## Shifts (R139, R141) -/

/-- R139, R141: a flag that is bit `i` of a byte, as a number. -/
theorem toNat_flagByte_getLsbD (a : Byte) (i : Nat) : (flagByte (a.getLsbD i)).toNat = a.toNat / 2 ^ i % 2 :=
  calc (flagByte (a.getLsbD i)).toNat = (a.getLsbD i).toNat := by cases a.getLsbD i <;> rfl
    _ = a.toNat / 2 ^ i % 2 := Nat.toNat_testBit a.toNat i

/-- R139: the bit a right shift moves out is the remainder of halving. -/
theorem toNat_shiftedOutRight (a : Byte) : (shiftedOutRight a).toNat = a.toNat % 2 := by
  rw [shiftedOutRight, toNat_flagByte_getLsbD, pow_zero, Nat.div_one]

/-- R141: the bit a left shift moves out is the top bit. -/
theorem toNat_shiftedOutLeft (a : Byte) : (shiftedOutLeft a).toNat = a.toNat / 128 := by
  rw [shiftedOutLeft, toNat_flagByte_getLsbD]
  omega

/-- R139: SHR under either value of SHIFT_SOURCE. -/
theorem shrUnder_spec (p : ShiftSource) (x y : Reg) (s : State) : ∃ t, shrUnder p x y s = .next t ∧
    (x ≠ VF → (t.getV x).toNat = (shiftOperand p x y s).toNat / 2) ∧
      (t.getV VF).toNat = (shiftOperand p x y s).toNat % 2 ∧
      (∀ r, r ≠ x → r ≠ VF → t.getV r = s.getV r) ∧ t.pc = s.pc + 2#16 ∧ KeepsBesidesRegs s t := by
  refine ⟨_, rfl, fun hx => ?_, ?_, s.writeWithFlag_frame x _ _⟩
  · rw [s.getV_writeWithFlag_dest hx, BitVec.toNat_ushiftRight, Nat.shiftRight_eq_div_pow, pow_one]
  · rw [State.getV_writeWithFlag_VF, toNat_shiftedOutRight]

/-- R141: SHL under either value of SHIFT_SOURCE. -/
theorem shlUnder_spec (p : ShiftSource) (x y : Reg) (s : State) : ∃ t, shlUnder p x y s = .next t ∧
    (x ≠ VF → (t.getV x).toNat = 2 * (shiftOperand p x y s).toNat % 256) ∧
      (t.getV VF).toNat = (shiftOperand p x y s).toNat / 128 ∧
      (∀ r, r ≠ x → r ≠ VF → t.getV r = s.getV r) ∧ t.pc = s.pc + 2#16 ∧ KeepsBesidesRegs s t := by
  refine ⟨_, rfl, fun hx => ?_, ?_, s.writeWithFlag_frame x _ _⟩
  · rw [s.getV_writeWithFlag_dest hx, BitVec.toNat_shiftLeft, Nat.shiftLeft_eq, pow_one, Nat.mul_comm]
  · rw [State.getV_writeWithFlag_VF, toNat_shiftedOutLeft]

/-- Settles O26: this hardware's SHIFT_SOURCE is VX, and VY is the other value. -/
theorem shiftRightMovesBit0ToVF : Obligations.ShiftRightMovesBit0ToVF := fun s x y =>
  ⟨decode_encode (.shr x y), shrUnder_spec .vx x y s, shrUnder_spec .vy x y s⟩

/-- Settles O27: this hardware's SHIFT_SOURCE is VX, and VY is the other value. -/
theorem shiftLeftMovesBit7ToVF : Obligations.ShiftLeftMovesBit7ToVF := fun s x y =>
  ⟨decode_encode (.shl x y), shlUnder_spec .vx x y s, shlUnder_spec .vy x y s⟩

end Sys2Proof.Machine
end

section
/-! PROOFS. The display (43_display.md): clearing, drawing and the glyph address. DRW is said once (`exec_drw`): where its
sprite can be read, it writes back a canvas on which exactly the covered pixels are drawn (`Drawn`, Laws/Draw); what it
does to a pixel and to VF, and what a second draw does, are facts about that canvas. The encodings are `decode_encode`,
read at the word written out from the pattern. -/

namespace Sys2Proof.Machine

variable {s : State} {x y : Reg} {n : Nibble}

/-! ## Checks before the body (R244) -/

/-- R244: a body whose check passes happens. -/
theorem checked_of_none {c : Option FatalError} (h : c = none) (s body : State) : checked c s body = .next body :=
  h ▸ checked_none s body

/-- R243, R244: a body whose check raises is left undone. -/
theorem checked_of_some {c : Option FatalError} {e : FatalError} (h : c = some e) (s body : State) :
    checked c s body = .next (s.setRun (.halted e)) :=
  h ▸ checked_some e s body

/-! ## Clear (R170) -/

/-- Settles O29: the new screen is the clear one, and nothing but it and `pc` is written. -/
theorem clearScreenClearsEveryPixel : Obligations.ClearScreenClearsEveryPixel :=
  ⟨decode_encode .cls, fun _ => ⟨_, rfl, pixel_clearScreen, fun _ => rfl, rfl,
    rfl, fun _ => rfl, ⟨rfl, rfl, rfl⟩, ⟨rfl, rfl⟩, rfl, rfl⟩⟩

/-! ## The canvas a draw leaves (R171) -/

/-- R171: a flag byte is 1 exactly if what it reports is true. -/
theorem flagByte_eq_one_iff (p : Bool) : flagByte p = 1#8 ↔ p = true := by
  cases p <;> decide

/-- R171: drawn on a screen without a collision so far, a cover collides exactly if one of its pixels was set. -/
theorem Drawn.collided_iff {f : FrameBuffer} {k : Canvas} {c : Fin 64 → Fin 32 → Bool} (h : Drawn (f, false) k c) :
    k.2 = true ↔ ∃ px py, pixel f px py = true ∧ c px py = true := by
  rw [h.2]
  simp only [Bool.false_eq_true, false_or, and_comm]

/-- R171: drawing a cover a second time restores the screen, because each covered pixel is flipped twice. -/
theorem Drawn.twice_screen {k k' k'' : Canvas} {b : Bool} {c : Fin 64 → Fin 32 → Bool} (h : Drawn k k' c)
    (h' : Drawn (k'.1, b) k'' c) : k''.1 = k.1 :=
  FrameBuffer.ext_pixel _ _ fun px py => by rw [h'.1, h.1, Bool.xor_assoc, Bool.xor_self, Bool.xor_false]

/-- R171: the second time it collides exactly if a covered pixel was clear before the first, which set it. -/
theorem Drawn.twice_collided_iff {k k' k'' : Canvas} {c : Fin 64 → Fin 32 → Bool} (h : Drawn k k' c)
    (h' : Drawn (k'.1, false) k'' c) : k''.2 = true ↔ ∃ px py, pixel k.1 px py = false ∧ c px py = true := by
  have flipped : ∀ px py, pixel k'.1 px py = true ∧ c px py = true ↔ pixel k.1 px py = false ∧ c px py = true :=
    fun px py => and_congr_left fun hc => by rw [h.1, hc, Bool.xor_true, Bool.not_eq_true']
  simp only [h'.collided_iff, flipped]

/-! ## What DRW draws (R171, R172) -/

/-- R171: a cover depends only on the sprite's own rows. -/
theorem spriteCovers_congr {row row' : Nat → Byte} {m : Nat} (h : ∀ r < m, row r = row' r) (x0 y0 : Nat) (px : Fin 64)
    (py : Fin 32) : spriteCovers row m x0 y0 px py = spriteCovers row' m x0 y0 px py := by
  unfold spriteCovers
  by_cases hr : (py.val + 32 - y0 % 32) % 32 < m
  · simp only [h _ hr]
  · simp only [hr, decide_false, Bool.false_and]

/-- R171: the pixels DRW covers: its `n`-row sprite at I, placed by two registers. -/
def State.drwCovers (s : State) (x y : Reg) (n : Nibble) : Fin 64 → Fin 32 → Bool :=
  spriteCovers s.spriteRow n.toNat ((s.getV x).toNat % 64) ((s.getV y).toNat % 32)

/-- R171: what DRW writes back of a drawn canvas: the screen, and the collision in VF. -/
def State.showCanvas (s : State) (k : Canvas) : State := ((s.setScreen k.1).setV VF (flagByte k.2)).advance

/-- R171: the loop over the bytes read at I draws exactly the pixels DRW covers. -/
theorem drawn_drwCovers (s : State) (x y : Reg) (n : Nibble) :
    Drawn (s.fb, false) (drawSprite (readBytes s.mem s.base n.toNat) (s.getV x) (s.getV y) s.fb) (s.drwCovers x y n) := by
  have hn : n.toNat < 16 := n.isLt
  refine (drawn_drawSprite _ (by rw [readBytes_length]; omega) (s.getV x) (s.getV y) s.fb).congr fun px py => ?_
  rw [readBytes_length]
  exact spriteCovers_congr (fun r hr => readBytes_getD s.mem s.base n.toNat r hr) _ _ px py

/-- R171, R58: a sprite with no row, or one that ends inside memory, can be read and is drawn. -/
theorem exec_drw (h : n = 0#4 ∨ s.base + n.toNat ≤ 0x1000) (x y : Reg) :
    ∃ k, Drawn (s.fb, false) k (s.drwCovers x y n) ∧ exec (.drw x y n) s = .next (s.showCanvas k) := by
  have hcheck : checkRead s.base n.toNat = none :=
    (checkRead_eq_none _ _).2 (h.imp_left fun hn => congrArg BitVec.toNat hn)
  exact ⟨_, drawn_drwCovers s x y n, checked_of_none hcheck s _⟩

/-- R171: VF reports the canvas's collision. -/
theorem State.getV_showCanvas_VF (s : State) (k : Canvas) : (s.showCanvas k).getV VF = flagByte k.2 :=
  (State.getV_setV _ VF VF _).trans (if_pos rfl)

/-- R171: the other registers are kept; `pc` advances, and nothing else but the screen changes. -/
theorem State.showCanvas_frame (s : State) (k : Canvas) :
    KeepsRegsBut VF s (s.showCanvas k) ∧ (s.showCanvas k).pc = s.pc + 2#16 ∧
      KeepsBesidesScreenRegs s (s.showCanvas k) :=
  ⟨fun r hr => (State.getV_setV _ VF r _).trans (if_neg hr), rfl,
    rfl, fun _ => rfl, ⟨rfl, rfl, rfl⟩, ⟨rfl, rfl⟩, rfl, rfl⟩

/-- Settles O30: the canvas DRW shows has exactly the covered pixels drawn, and VF is its collision. -/
theorem drawXorsExactlyTheCoveredPixels : Obligations.DrawXorsExactlyTheCoveredPixels := by
  intro s x y n
  refine ⟨decode_encode (.drw x y n), fun h => ?_⟩
  obtain ⟨k, hk, hexec⟩ := exec_drw h x y
  refine ⟨_, hexec, hk.1, fun hset => ?_, fun hclear => ?_, s.showCanvas_frame k⟩
  · rw [State.getV_showCanvas_VF, hk.collided_iff.2 hset]
    rfl
  · rw [State.getV_showCanvas_VF, Bool.eq_false_iff.2 (mt hk.collided_iff.1 hclear)]
    rfl

/-- Settles O31: the check of the sprite's addresses reports the first one outside, and nothing is drawn. -/
theorem drawFromOutsideMemoryHalts : Obligations.DrawFromOutsideMemoryHalts := by
  intro s x y n hn hout
  have hcheck : checkRead s.base n.toNat = some (.memoryOutOfRange (max s.base 0x1000)) :=
    checkRead_eq_some _ _ (fun h => hn (BitVec.eq_of_toNat_eq h)) hout
  exact checked_of_some hcheck s _

/-! ## Drawing twice (R171) -/

/-- R171: after a draw, and whatever is done to the registers, a sprite at the same place covers the same pixels. -/
theorem drwCovers_showCanvas {k : Canvas} {v : Vector Byte 16} {x' y' : Reg}
    (hx : (State.getV { s.showCanvas k with v := v } x').toNat % 64 = (s.getV x).toNat % 64)
    (hy : (State.getV { s.showCanvas k with v := v } y').toNat % 32 = (s.getV y).toNat % 32) (n : Nibble) :
    State.drwCovers { s.showCanvas k with v := v } x' y' n = s.drwCovers x y n := by
  unfold State.drwCovers
  rw [hx, hy]
  rfl

/-- Settles O32: the second draw has the cover of the first, on the screen the first left. -/
theorem drawingTwiceRestoresTheScreen : Obligations.DrawingTwiceRestoresTheScreen := by
  intro s t u v x y x' y' n h ht hx hy hu
  obtain ⟨k, hk, hexec⟩ := exec_drw h x y
  obtain rfl : s.showCanvas k = t := Host.Outcome.next.inj (hexec.symm.trans ht)
  have h' : n = 0#4 ∨ State.base { s.showCanvas k with v := v } + n.toNat ≤ 0x1000 := h
  obtain ⟨k', hk', hexec'⟩ := exec_drw h' x' y'
  obtain rfl : State.showCanvas _ k' = u := Host.Outcome.next.inj (hexec'.symm.trans hu)
  rw [drwCovers_showCanvas hx hy] at hk'
  refine ⟨hk.twice_screen hk', ?_⟩
  rw [State.getV_showCanvas_VF, flagByte_eq_one_iff]
  exact hk.twice_collided_iff hk'

/-! ## The glyph of a digit (R173) -/

/-- R173: the address of a glyph is far below 2^16, so 16 bits hold it as it is. -/
theorem glyphAddress_toNat (d : Byte) : (glyphAddress d).toNat = 0x050 + 5 * d.toNat := by
  rw [glyphAddress, BitVec.toNat_ofNat, fontBase]
  omega

/-- R220, R173: setting I and advancing changes nothing else. -/
theorem keepsBesidesIndex_setIndex_advance (s : State) (w : Word) : KeepsBesidesIndex s (s.setIndex w).advance :=
  ⟨fun _ => rfl, fun _ => rfl, rfl, ⟨rfl, rfl, rfl⟩, ⟨rfl, rfl⟩, rfl, rfl⟩

/-- Settles O33: the check of the operand passes up to 15 and reports the instruction's word above. -/
theorem glyphAddressOfADigit : Obligations.GlyphAddressOfADigit := by
  intro s x
  refine ⟨decode_encode (.ldF x), fun hle => ?_, fun hgt => ?_⟩
  · exact ⟨_, checked_of_none ((checkOperand_eq_none _ _).2 hle) s _, glyphAddress_toNat (s.getV x), rfl,
      keepsBesidesIndex_setIndex_advance s _⟩
  · exact checked_of_some (checkOperand_eq_some _ _ hgt) s _

end Sys2Proof.Machine
end

section
/-! PROOFS. Input (44_input.md): the key skips, by the check of their operand and the key it names; the start of a
key-wait, which is a move of the run state alone; and its end, by what `resolve_wait` does in each run state. The
encodings are `decode_encode`, read at the word written out from the pattern. -/

namespace Sys2Proof.Machine

variable {s : State} {x k : Reg}

/-! ## The key skips (R190, R191) -/

/-- R190, R191: the index of a key passes the operand check, and the body gets that key. -/
theorem checked_checkOperand_key {v : Byte} (h : v.toNat = k.toNat) (w : Word) (s : State) (body : Reg → State) :
    checked (checkOperand v w) s (body (keyIndex v)) = .next (body k) := by
  have hle : v.toNat ≤ 15 := h.trans_le (Nat.le_of_lt_succ k.isLt)
  have hindex : keyIndex v = k := BitVec.eq_of_toNat_eq ((keyIndex_toNat v hle).trans h)
  rw [checked_of_none ((checkOperand_eq_none v w).2 hle), hindex]

/-- R190: SKP on the index of a key skips if the key is pressed. -/
theorem execSkp_of_key (h : (s.getV x).toNat = k.toNat) : execSkp x s = .next (s.skipIf (s.key k)) :=
  checked_checkOperand_key h _ s fun k => s.skipIf (s.key k)

/-- R191: SKNP on the index of a key skips if the key is not pressed. -/
theorem execSknp_of_key (h : (s.getV x).toNat = k.toNat) : execSknp x s = .next (s.skipIf (!s.key k)) :=
  checked_checkOperand_key h _ s fun k => s.skipIf (!s.key k)

/-- Settles O34: the operand check passes on a key's index, which leaves a skip on that key, and raises above 15. -/
theorem skipsOnAKey : Obligations.SkipsOnAKey := by
  intro s x k
  refine ⟨decode_encode (.skp x), decode_encode (.sknp x), fun hkey => ⟨?_, ?_⟩, fun hgt => ⟨?_, ?_⟩⟩
  · exact (execSkp_of_key hkey).trans (congrArg _ (skipIf_eq s Iff.rfl))
  · exact (execSknp_of_key hkey).trans (congrArg _ (skipIf_eq s (Bool.not_eq_true' _).to_iff))
  · exact checked_of_some (checkOperand_eq_some _ _ hgt) s _
  · exact checked_of_some (checkOperand_eq_some _ _ hgt) s _

/-! ## The key-wait (R192, R193) -/

/-- Settles O35: the arm of `exec` sets the run state alone; a cycle is then idle, and no tick or key update sets it. -/
theorem keyWaitSuspendsTheCore : Obligations.KeyWaitSuspendsTheCore := fun _ x =>
  ⟨decode_encode (.ldK x), _, rfl, rfl, cycle_idle RunState.noConfusion, rfl, fun _ _ => rfl⟩

/-- R193: `resolve_wait` of a key index has a move. -/
theorem transact_resolveWait_of_le {value : Nat} (h : value ≤ 15) (s : State) :
    transact (.resolveWait value) s = .next (resolveWait (BitVec.ofNat 4 value) s) := if_pos h

/-- R193, R270: a value above 15 has no move. -/
theorem transact_resolveWait_of_gt {value : Nat} (h : 15 < value) (s : State) :
    transact (.resolveWait value) s = .fault (.resolveWaitOutOfRange value) := if_neg (Nat.not_le.2 h)

/-- R193: the byte written to the awaiting register is the key index itself. -/
theorem toNat_keyByte {value : Nat} (h : value ≤ 15) : ((BitVec.ofNat 4 value).setWidth 8).toNat = value := by
  rw [BitVec.toNat_setWidth, BitVec.toNat_ofNat]
  omega

/-- Settles O36: the wait is resolved where there is one, any other run state is left alone, and a value above 15 breaks
the host's duty. -/
theorem resolvingAKeyWaitResumes : Obligations.ResolvingAKeyWaitResumes := by
  intro s value
  refine ⟨fun hle x hwait => ?_, fun hle hidle => ?_, fun hgt => transact_resolveWait_of_gt hgt s⟩
  · have hmove := transact_resolveWait_of_le hle s
    rw [resolveWait_awaiting hwait] at hmove
    refine ⟨_, hmove, ?_, fun r hr => ?_, rfl, rfl, rfl, rfl, rfl, rfl, ⟨rfl, rfl, rfl⟩, rfl, rfl⟩
    · have hwritten := (s.getV_setV x x ((BitVec.ofNat 4 value).setWidth 8)).trans (if_pos rfl)
      exact (congrArg BitVec.toNat hwritten).trans (toNat_keyByte hle)
    · exact (s.getV_setV x r _).trans (if_neg hr)
  · rw [transact_resolveWait_of_le hle, resolveWait_idle hidle]

end Sys2Proof.Machine
end

section
/-! PROOFS. Timer access (45_timer_access.md): FX07 is a register write of DT, so its frame is `writeReg_frame`; FX15 and
FX18 write one timer and `pc`, and `sound_active` is read off the byte FX18 stored. The encodings are `decode_encode`,
read at the word written out from the pattern. -/

namespace Sys2Proof.Machine

/-- R28: sound is active exactly if ST is not 0. -/
theorem State.soundActive_iff (s : State) : s.soundActive = true ↔ s.st ≠ 0#8 := bne_iff_ne

/-- R210: FX07 is a register write of DT. -/
theorem exec_ldDT (x : Reg) (s : State) : exec (.ldDT x) s = .next (s.writeReg x s.dt) := rfl

/-- R211: FX15 writes DT and advances. -/
theorem exec_setDT (x : Reg) (s : State) : exec (.setDT x) s = .next (s.setDT (s.getV x)).advance := rfl

/-- R212: FX18 writes ST and advances. -/
theorem exec_setST (x : Reg) (s : State) : exec (.setST x) s = .next (s.setST (s.getV x)).advance := rfl

/-- Settles O37: FX07 by the frame of a register write, FX15 and FX18 by the one timer each writes. -/
theorem timerInstructionsMoveOneByte : Obligations.TimerInstructionsMoveOneByte := by
  intro s x
  refine ⟨decode_encode (.ldDT x), decode_encode (.setDT x), decode_encode (.setST x), ?_, exec_setDT x s, ?_⟩
  · exact ⟨_, exec_ldDT x s, s.getV_writeReg_self x s.dt, s.writeReg_frame x s.dt⟩
  · exact ⟨_, exec_setST x s, rfl, State.soundActive_iff _⟩

end Sys2Proof.Machine
end

section
/-! PROOFS. The index register and memory instructions (46_index_memory.md): the moves of I; the store at I, said once for
FX33 and FX55 (`State.stored`), which differ only in the bytes they store; and the load of a range of registers.
Stores that may not be made are O44's. The encodings are `decode_encode`, read at the word written out from the pattern. -/

namespace Sys2Proof.Machine

variable {s : State}

/-! ## The index register (R220, R221) -/

/-- R220, R72: zero extension keeps the address. -/
theorem zext16_toNat (nnn : Addr12) : (zext16 nnn).toNat = nnn.toNat :=
  BitVec.toNat_setWidth_of_le (by decide)

/-- R221: a register is added to I modulo 2^16. -/
theorem toNat_index_add (w : Word) (b : Byte) : (w + b.setWidth 16).toNat = (w.toNat + b.toNat) % 0x10000 := by
  rw [BitVec.toNat_add, BitVec.toNat_setWidth_of_le (by decide)]

/-- Settles O40: both set I and advance; they differ in the word they set. -/
theorem indexIsSetOrAddedTo : Obligations.IndexIsSetOrAddedTo := fun s x nnn =>
  ⟨decode_encode (.ldI nnn), decode_encode (.addI x),
    ⟨_, rfl, zext16_toNat nnn, rfl, keepsBesidesIndex_setIndex_advance s _⟩,
    ⟨_, rfl, toNat_index_add s.index (s.getV x), rfl, keepsBesidesIndex_setIndex_advance s _⟩⟩

/-! ## Stores at I (R222, R223) -/

/-- R222, R223: the state a store at I leaves where it may be made: the bytes written from I on, and `pc` advanced. -/
def State.stored (s : State) (bs : List Byte) : State := (s.setMem (writeBytes s.mem s.base bs)).advance

/-- R58, R59: a store from 0x200 on that ends inside memory is made. -/
theorem storeAtIndex_inRange {bs : List Byte} (hlow : progBase ≤ s.base) (hhigh : s.base + bs.length ≤ memSize) :
    storeAtIndex bs s = .next (s.stored bs) :=
  checked_of_none ((checkWrite_eq_none _ _).2 (.inr ⟨hlow, hhigh⟩)) s _

/-- R61: each byte stored is read back at its address. -/
theorem readByte_stored (hmem : Memory.wf s.mem) {bs : List Byte} {k : Nat} (hk : k < bs.length) :
    readByte (s.stored bs).mem (s.base + k) = bs[k] := by
  rw [State.stored, State.advance_mem, State.setMem_mem, readByte_writeBytes _ hmem.1, if_pos (by omega),
    Nat.add_sub_cancel_left, List.getD_eq_getElem _ _ hk]

/-- R61, R222, R223: the bytes outside the `n` stored are kept; `pc` advances, and nothing else changes. -/
theorem stored_frame (hmem : Memory.wf s.mem) {bs : List Byte} {n : Nat} (hn : bs.length = n) :
    KeepsMemoryOutside s.base n s (s.stored bs) ∧ (s.stored bs).pc = s.pc + 2#16 ∧
      KeepsBesidesMemory s (s.stored bs) :=
  ⟨fun a ha => (readByte_writeBytes _ hmem.1 _ bs a).trans (if_neg (by omega)), rfl,
    fun _ => rfl, rfl, rfl, ⟨rfl, rfl, rfl⟩, ⟨rfl, rfl⟩, rfl, rfl⟩

/-- R222: the byte stored at `I + k` is digit `k`; a digit is below 256, so a byte holds it as it is. -/
theorem toNat_readByte_stored_bcdDigits (hmem : Memory.wf s.mem) (b : Byte) :
    (readByte (s.stored (bcdDigits b)).mem s.base).toNat = b.toNat / 100 ∧
      (readByte (s.stored (bcdDigits b)).mem (s.base + 1)).toNat = b.toNat / 10 % 10 ∧
      (readByte (s.stored (bcdDigits b)).mem (s.base + 2)).toNat = b.toNat % 10 := by
  have hlen : (bcdDigits b).length = 3 := rfl
  have hundreds := readByte_stored hmem (bs := bcdDigits b) (k := 0) (by omega)
  have tens := readByte_stored hmem (bs := bcdDigits b) (k := 1) (by omega)
  have ones := readByte_stored hmem (bs := bcdDigits b) (k := 2) (by omega)
  rw [Nat.add_zero] at hundreds
  rw [hundreds, tens, ones]
  have hb : b.toNat < 256 := b.isLt
  exact ⟨Nat.mod_eq_of_lt (by omega), Nat.mod_eq_of_lt (by omega), Nat.mod_eq_of_lt (by omega)⟩

/-- Settles O41: FX33 is the store of the three digits at I. -/
theorem decimalDigitsAreStoredAtI : Obligations.DecimalDigitsAreStoredAtI := by
  intro s x
  refine ⟨decode_encode (.ldB x), fun hmem hlow hhigh => ?_⟩
  obtain ⟨hundreds, tens, ones⟩ := toNat_readByte_stored_bcdDigits hmem (s.getV x)
  exact ⟨_, storeAtIndex_inRange hlow hhigh, hundreds, tens, ones, stored_frame hmem rfl⟩

/-- Settles O42: FX55 is the store of V0 to Vx at I. -/
theorem registerRangeIsStoredAtI : Obligations.RegisterRangeIsStoredAtI := by
  intro s x
  refine ⟨decode_encode (.stRange x), fun hmem hlow hhigh => ?_⟩
  have hlen := firstRegs_rangeCount_length s x
  have hend : s.base + (s.firstRegs (rangeCount x)).length ≤ memSize := hlen ▸ hhigh
  exact ⟨_, storeAtIndex_inRange hlow hend, fun _ hk => readByte_writeBytes_firstRegs hmem hk, stored_frame hmem hlen⟩

/-! ## The load of a range (R224) -/

/-- R224: the state FX65 leaves where it may read: V0 to Vx loaded from I, and `pc` advanced. -/
def State.rangeLoaded (s : State) (x : Reg) : State :=
  (s.loadRegs 0 (readBytes s.mem s.base (rangeCount x))).advance

/-- R224: the registers up to `x` hold the bytes read at I, those above what they held. -/
theorem State.getV_rangeLoaded (s : State) (x k : Reg) :
    (s.rangeLoaded x).getV k = if k.toNat ≤ x.toNat then readByte s.mem (s.base + k.toNat) else s.getV k := by
  have hlen : (readBytes s.mem s.base (rangeCount x)).length = x.toNat + 1 := readBytes_length ..
  have hx : x.toNat < 16 := x.isLt
  rw [State.rangeLoaded, State.advance_getV, State.getV_loadRegs _ _ _ (by omega)]
  by_cases hk : k.toNat ≤ x.toNat
  · rw [if_pos hk, if_pos (by omega), Nat.sub_zero]
    exact readBytes_getD _ _ _ _ (Nat.lt_succ_of_le hk)
  · rw [if_neg hk, if_neg (by omega)]

/-- R224: `pc` advances, and nothing else but the registers changes. -/
theorem State.rangeLoaded_frame (s : State) (x : Reg) :
    (s.rangeLoaded x).pc = s.pc + 2#16 ∧ KeepsBesidesRegs s (s.rangeLoaded x) := by
  obtain ⟨v, hv⟩ := s.loadRegs_frame 0 (readBytes s.mem s.base (rangeCount x))
  rw [State.rangeLoaded, hv]
  exact ⟨rfl, rfl, fun _ => rfl, rfl, ⟨rfl, rfl, rfl⟩, ⟨rfl, rfl⟩, rfl, rfl⟩

/-- Settles O43: the check of the addresses passes, and the range is loaded, or reports the first one outside. -/
theorem registerRangeIsLoadedFromI : Obligations.RegisterRangeIsLoadedFromI := by
  intro s x
  refine ⟨decode_encode (.ldRange x), fun hin => ?_, fun hout => ?_⟩
  · have hcheck : checkRead s.base (rangeCount x) = none := (checkRead_eq_none _ _).2 (.inr hin)
    refine ⟨s.rangeLoaded x, checked_of_none hcheck s _, fun k hk => ?_, fun r hr => ?_, s.rangeLoaded_frame x⟩
    · rw [State.getV_rangeLoaded, if_pos hk]
    · rw [State.getV_rangeLoaded, if_neg (Nat.not_le.2 hr)]
  · have hcheck : checkRead s.base (rangeCount x) = some (.memoryOutOfRange (max s.base 0x1000)) :=
      checkRead_eq_some _ _ (Nat.succ_ne_zero _) hout
    exact checked_of_some hcheck s _

end Sys2Proof.Machine
end

section
/-! PROOFS. Exceptions and the host's transactions (60_exceptions.md): a raising cycle changes the run state alone, by the
effects of an instruction (`Effect`); which error an instruction raises, by the code each check reports; that every
instruction answers a next state; then the tick, as arithmetic on one counter, and the update of one key. -/

namespace Sys2Proof.Machine

variable {s t : State} {i : Instr} {e : FatalError}

/-! ## Fatal errors are precise (R243, R244) -/

/-- R244: raising leaves the state it was raised in, halted with the error. -/
theorem eq_setRun_of_raise {e' : FatalError} (h : raise e' s = .next t) (ht : t.run = .halted e) :
    t = s.setRun (.halted e) := by
  obtain rfl := Host.Outcome.next.inj h
  rw [← ht, State.setRun_run]

/-- R244: of the effects of an instruction on a running core, only raising halts it. -/
theorem Effect.eq_setRun_of_halted (he : Effect s i t) (hrun : s.run = .running) (ht : t.run = .halted e) :
    t = s.setRun (.halted e) := by
  cases he with
  | raised e' => exact eq_setRun_of_raise (e' := e') rfl ht
  | wait x => cases ht
  | _ => cases hrun.symm.trans ht

/-- Settles O11: a running cycle raises by itself or by its instruction, and its reply is the error it halts with. -/
theorem fatalErrorsArePrecise : Obligations.FatalErrorsArePrecise := by
  intro s t e hrun h ht
  refine ⟨?_, replyTo_cycle_halted h ht⟩
  rw [cycle_running hrun] at h
  obtain ⟨e', -, hfetch⟩ | ⟨-, w, -, hdecode⟩ | ⟨-, i, -, hexec⟩ := runCycle_cases s
  · exact eq_setRun_of_raise (hfetch ▸ h) ht
  · exact eq_setRun_of_raise (hdecode ▸ h) ht
  · exact (exec_effect (hexec ▸ h)).eq_setRun_of_halted hrun ht

/-! ## The listed errors (R242) -/

/-- R58, R242: the check of a read reports MemoryOutOfRange. -/
theorem checkRead_code_mem {a n : Nat} (h : checkRead a n = some e) : e.code ∈ [4] := by
  have hbad : ¬(n = 0 ∨ a + n ≤ memSize) := fun hok => by cases h.symm.trans ((checkRead_eq_none a n).2 hok)
  obtain rfl := Option.some.inj ((checkRead_eq_some a n (by omega) (by omega)).symm.trans h)
  exact List.mem_singleton_self 4

/-- R58, R59, R242: the check of a write reports MemoryOutOfRange or ProtectedWrite. -/
theorem checkWrite_code_mem {a n : Nat} (h : checkWrite a n = some e) : e.code ∈ [4, 5] := by
  have hbad : ¬(n = 0 ∨ (progBase ≤ a ∧ a + n ≤ memSize)) := fun hok => by
    cases h.symm.trans ((checkWrite_eq_none a n).2 hok)
  by_cases hlow : a < progBase
  · obtain rfl := Option.some.inj ((checkWrite_protected a n (by omega) hlow).symm.trans h)
    exact List.mem_cons_of_mem 4 (List.mem_singleton_self 5)
  · obtain rfl := Option.some.inj ((checkWrite_outOfRange a n (by omega) (by omega) (by omega)).symm.trans h)
    exact List.mem_cons_self

/-- R190, R173, R242: the check of an operand reports OperandOutOfRange. -/
theorem checkOperand_code_mem {v : Byte} {w : Word} (h : checkOperand v w = some e) : e.code ∈ [7] := by
  have hbad : ¬v.toNat ≤ 15 := fun hok => by cases h.symm.trans ((checkOperand_eq_none v w).2 hok)
  obtain rfl := Option.some.inj ((checkOperand_eq_some v w (by omega)).symm.trans h)
  exact List.mem_singleton_self 7

/-- R102, R242: the check of the depth reports StackOverflow. -/
theorem checkDepth_code_mem {d : Nat} (h : (if d ≥ 16 then some FatalError.stackOverflow else none) = some e) :
    e.code ∈ [2] := by
  split at h
  · obtain rfl := Option.some.inj h
    exact List.mem_singleton_self 2
  · cases h

/-- R242, R244: a checked body that does not halt by itself halts only with an error its check reports. -/
theorem code_mem_of_checked {c : Option FatalError} {body : State} {codes : List Nat} (h : checked c s body = .next t)
    (hbody : body.run = .running) (hc : ∀ {e}, c = some e → e.code ∈ codes) (ht : t.run = .halted e) :
    e.code ∈ codes := by
  obtain ⟨e', he', rfl⟩ | ⟨-, rfl⟩ := checked_cases h
  · obtain rfl := RunState.halted.inj ht
    exact hc he'
  · cases hbody.symm.trans ht

/-- R100, R242: RET halts only with StackUnderflow. -/
theorem execRet_code_mem (hrun : s.run = .running) (h : execRet s = .next t) (ht : t.run = .halted e) : e.code ∈ [3] := by
  obtain hnil | ⟨l, a, hl⟩ := s.stack.eq_nil_or_concat'
  · obtain rfl := Host.Outcome.next.inj ((execRet_of_nil hnil).symm.trans h)
    obtain rfl := RunState.halted.inj ht
    exact List.mem_singleton_self 3
  · obtain rfl := Host.Outcome.next.inj ((execRet_of_append hl).symm.trans h)
    cases hrun.symm.trans ht

/-- R224: loading registers keeps the run state. -/
theorem State.loadRegs_run (s : State) (k : Nat) (bs : List Byte) : (s.loadRegs k bs).run = s.run := by
  obtain ⟨v, hv⟩ := s.loadRegs_frame k bs
  rw [hv]

/-- Settles O12: RET by its two cases; each of the other eight faulting forms is one check and a body that keeps the core
running; the other 25 forms check nothing and do not halt. -/
theorem instructionsRaiseOnlyTheirListedErrors : Obligations.InstructionsRaiseOnlyTheirListedErrors := by
  intro i s t e hrun h ht
  cases i with
  | ret => exact execRet_code_mem hrun h ht
  | call nnn => exact code_mem_of_checked h hrun checkDepth_code_mem ht
  | drw x y n => exact code_mem_of_checked h hrun checkRead_code_mem ht
  | ldRange x => exact code_mem_of_checked h ((s.loadRegs_run _ _).trans hrun) checkRead_code_mem ht
  | ldB x | stRange x => exact code_mem_of_checked h hrun checkWrite_code_mem ht
  | skp x | sknp x | ldF x => exact code_mem_of_checked h hrun checkOperand_code_mem ht
  | ldK x =>
    obtain rfl := Host.Outcome.next.inj h
    cases ht
  | _ =>
    obtain rfl := Host.Outcome.next.inj h
    cases hrun.symm.trans ht

/-! ## Every instruction answers (R243, R249) -/

/-- R244: a checked body answers a next state, whether the check raises or not. -/
theorem exists_checked_eq_next (c : Option FatalError) (s body : State) : ∃ t, checked c s body = .next t := by
  cases c with
  | none => exact ⟨_, checked_none s body⟩
  | some e => exact ⟨_, checked_some e s body⟩

/-- R100: RET answers a next state at every depth. -/
theorem exists_execRet_eq_next (s : State) : ∃ t, execRet s = .next t := by
  obtain hnil | ⟨l, a, hl⟩ := s.stack.eq_nil_or_concat'
  · exact ⟨_, execRet_of_nil hnil⟩
  · exact ⟨_, execRet_of_append hl⟩

/-- Settles O13: an arm of `exec` is RET, a checked body, or a body that always happens. -/
theorem everyInstructionAnswersANextState : Obligations.EveryInstructionAnswersANextState := by
  intro i s
  cases i with
  | ret => exact exists_execRet_eq_next s
  | call | drw | skp | sknp | ldF | ldB | stRange | ldRange => exact exists_checked_eq_next ..
  | _ => exact ⟨_, rfl⟩

/-! ## Ticks (R255, R256) -/

/-- R255: a counter falls by 1 and stops at 0, which is subtraction on the naturals. -/
theorem tickCounter_toNat (b : Byte) : (tickCounter b).toNat = b.toNat - 1 := by
  unfold tickCounter
  split
  · next hpos => exact BitVec.toNat_sub_of_le (BitVec.le_def.2 hpos)
  · omega

/-- R255: a tick takes one off each timer and touches nothing else. -/
theorem tickTimers_eq (s : State) : tickTimers s = { s with dt := tickCounter s.dt, st := tickCounter s.st } := rfl

/-- Settles O38: each timer is one counter that falls by 1 and stops at 0. -/
theorem tickDecrementsTimersToZero : Obligations.TickDecrementsTimersToZero := by
  intro s
  have hdt : (tickTimers s).dt.toNat = s.dt.toNat - 1 := tickCounter_toNat s.dt
  have hst : (tickTimers s).st.toNat = s.st.toNat - 1 := tickCounter_toNat s.st
  refine ⟨tickTimers s, rfl, by omega, by omega, by omega, by omega, ?_, tickTimers_eq s⟩
  rw [soundActive_eq, decide_eq_true_eq]

/-- R255: `k` ticks of a counter take `k` off it, down to 0. -/
theorem tickCounter_iterate_toNat (k : Nat) (b : Byte) : (tickCounter^[k] b).toNat = b.toNat - k := by
  induction k with
  | zero => rfl
  | succ k ih => rw [Function.iterate_succ_apply', tickCounter_toNat, ih, Nat.sub_sub]

/-- R255: `k` ticks are `k` ticks of each counter, and touch nothing else. -/
theorem tickTimers_iterate (k : Nat) (s : State) :
    tickTimers^[k] s = { s with dt := tickCounter^[k] s.dt, st := tickCounter^[k] s.st } := by
  induction k generalizing s with
  | zero => rfl
  | succ k ih => exact ih (tickTimers s)

/-- Settles O39: `k` ticks act on the two counters alone, each by `k` of its own. -/
theorem repeatedTicksSaturateAtZero : Obligations.RepeatedTicksSaturateAtZero := by
  intro s k
  rw [tickTimers_iterate]
  exact ⟨tickCounter_iterate_toNat k s.dt, tickCounter_iterate_toNat k s.st, rfl⟩

/-! ## The update of a key (R261) -/

/-- R261: `set_key` of a key's index is the InputLatch's update of that key. -/
theorem transact_setKey_toNat (k : Reg) (p : Bool) (s : State) :
    transact (.setKey k.toNat p) s = .next (s.setKey k p) := by
  have hmove : transact (.setKey k.toNat p) s = .next (s.setKey (BitVec.ofNat 4 k.toNat) p) :=
    if_pos (Nat.le_of_lt_succ k.isLt)
  rw [hmove, BitVec.ofNat_toNat, BitVec.setWidth_eq]

/-- R261, R270: an index above 15 has no move. -/
theorem transact_setKey_of_gt {index : Nat} (h : 15 < index) (p : Bool) (s : State) :
    transact (.setKey index p) s = .fault (.setKeyOutOfRange index) := if_neg (Nat.not_le.2 h)

/-- Settles O49: an index of at most 15 is a key's, whose update writes that key alone; one above breaks the host's
duty. -/
theorem setKeySetsOneKey : Obligations.SetKeySetsOneKey := by
  intro s k index p
  refine ⟨fun hk => ?_, fun hgt => transact_setKey_of_gt hgt p s⟩
  subst hk
  refine ⟨_, transact_setKey_toNat k p s, ?_, fun j hj => ?_, rfl⟩
  · rw [State.key_setKey, if_pos rfl]
  · rw [State.key_setKey, if_neg hj]

end Sys2Proof.Machine
end

section
/-! PROOFS. Reset and load (70_reset_and_hazards.md): `State.reset` is what `reset()` makes of itself, so one account of
`resetMachine` serves for both; a ROM that fits is the bytes from 0x200 on over that memory. -/

namespace Sys2Proof.Machine

variable {bytes : List Byte}

/-! ## Reset (R290, R291) -/

/-- R290: the state after reset is itself the outcome of a `reset()`. -/
theorem resetMachine_reset : resetMachine State.reset = State.reset := rfl

/-- R290: every general register is 0. -/
@[simp] theorem getV_resetMachine (s : State) (r : Reg) : (resetMachine s).getV r = 0#8 :=
  Vector.getElem_replicate ..

/-- R290: every pixel is clear. -/
@[simp] theorem pixel_resetMachine (s : State) (px : Fin 64) (py : Fin 32) : pixel (resetMachine s).fb px py = false :=
  pixel_clearScreen px py

/-- R52, R290: every byte holds its reset contents. -/
@[simp] theorem readByte_resetMachine (s : State) (a : Nat) : readByte (resetMachine s).mem a = resetByte a := rfl

/-- Settles O46: `reset()` and `State.reset` are both a `resetMachine`, whose memory is the fontset and zeros. -/
theorem resetReplacesTheMachineState : Obligations.ResetReplacesTheMachineState := by
  intro s
  refine ⟨resetMachine s, rfl, fun u hu => ?_⟩
  obtain ⟨s', rfl⟩ : ∃ s', u = resetMachine s' := by
    obtain rfl | rfl := hu
    · exact ⟨s, rfl⟩
    · exact ⟨State.reset, resetMachine_reset.symm⟩
  refine ⟨getV_resetMachine s', rfl, rfl, rfl, pixel_resetMachine s', rfl, fun a hfont _ => ?_, fun a hout => ?_⟩
  · exact (readByte_resetMachine s' a).trans (resetByte_of_font a hfont)
  · exact (readByte_resetMachine s' a).trans (resetByte_of_outside a (hout.imp_right And.left))

/-- Settles O51: as the outcome of a `reset()`. -/
theorem resetMeetsTheInvariant : Obligations.ResetMeetsTheInvariant := by
  have hinv : (resetMachine State.reset).Inv := resetMachine_inv State.reset
  rwa [resetMachine_reset] at hinv

/-! ## Load (R241, R292, R293) -/

/-- R292: the host gets Ok for a ROM that fits. -/
theorem loadReply_of_le (h : bytes.length ≤ maxRom) : loadReply bytes = .ok := if_neg (Nat.not_lt.2 h)

/-- R241: it gets RomTooLarge for one that does not. -/
theorem loadReply_of_gt (h : maxRom < bytes.length) : loadReply bytes = .romTooLarge := if_pos h

/-- R292, R293: past a load that fits, a byte is the ROM's where the ROM reaches, and else as at reset. -/
theorem readByte_loadRom (h : bytes.length ≤ maxRom) (s : State) (a : Nat) :
    readByte (loadRom bytes s).mem a =
      if progBase ≤ a ∧ a < progBase + bytes.length then bytes.getD (a - progBase) 0#8 else resetByte a := by
  rw [loadRom_of_le h]
  exact readByte_writeBytes [] .nil progBase bytes a

/-- R292: a load that fits is a reset in every field but memory; the schedule and the count of draws stay (log entry 3). -/
theorem loadRom_frame (h : bytes.length ≤ maxRom) (s : State) :
    loadRom bytes s = { State.reset with mem := (loadRom bytes s).mem, draws := s.draws, calls := s.calls } := by
  rw [loadRom_of_le h]
  rfl

/-- Settles O48: a ROM that fits by its frame and its bytes, one that does not by the size check alone. -/
theorem loadRomResetsThenCopies : Obligations.LoadRomResetsThenCopies := by
  intro s bytes
  constructor
  · intro hfit
    refine ⟨loadRom bytes s, rfl, loadReply_of_le hfit, loadRom_frame hfit s, fun a hlow hhigh => ?_, fun a hout => ?_⟩
    · exact (readByte_loadRom hfit s a).trans (if_pos ⟨hlow, hhigh⟩)
    · exact (readByte_loadRom hfit s a).trans (if_neg fun hin => hout.elim (Nat.not_lt.2 hin.1) (Nat.not_le.2 hin.2))
  · intro hlong
    exact ⟨congrArg Host.Outcome.next (loadRom_of_gt hlong s), loadReply_of_gt hlong⟩

end Sys2Proof.Machine
end

section
/-! PROOFS. What reset leaves in the timers and the keys (70_reset_and_hazards.md): the spec's own decision D19. -/

namespace Sys2Proof.Machine

/-- R290: what `reset()` may leave, and `State.reset` itself, are each a `resetMachine`. -/
theorem exists_eq_resetMachine {s u : State} (hu : u = resetMachine s ∨ u = State.reset) : ∃ s', u = resetMachine s' := by
  obtain hcall | hreset := hu
  · exact ⟨s, hcall⟩
  · exact ⟨State.reset, hreset.trans resetMachine_reset.symm⟩

/-- D19: the delay timer is 0. -/
@[simp] theorem dt_resetMachine (s : State) : (resetMachine s).dt = 0#8 := rfl

/-- D19: the sound timer is 0. -/
@[simp] theorem st_resetMachine (s : State) : (resetMachine s).st = 0#8 := rfl

/-- D19, R28: no sound is on, since the sound timer is 0. -/
@[simp] theorem soundActive_resetMachine (s : State) : (resetMachine s).soundActive = false :=
  Bool.eq_false_iff.2 fun hon => (State.soundActive_iff _).1 hon (st_resetMachine s)

/-- D19: every key is released. -/
@[simp] theorem key_resetMachine (s : State) (k : Reg) : (resetMachine s).key k = false :=
  Vector.getElem_replicate ..

/-- Settles O47: `reset()` and `State.reset` are both a `resetMachine`, whose timers are 0 and whose keys are released. -/
theorem resetClearsTimersAndKeys : Obligations.ResetClearsTimersAndKeys := by
  intro s
  refine ⟨resetMachine s, rfl, fun u hu => ?_⟩
  obtain ⟨s', rfl⟩ := exists_eq_resetMachine hu
  exact ⟨dt_resetMachine s', st_resetMachine s', soundActive_resetMachine s', key_resetMachine s'⟩

end Sys2Proof.Machine
end
